-- ==== Sys2Proof/Word.lean ====
section
/-! DEFINITION. The word types of the machine (00_scope.md R7): 8-bit cells and registers, 16-bit
I, PC and instruction words, 12-bit and 4-bit instruction fields, register numbers 0 to 15. -/

namespace Sys2Proof

/-- An 8-bit value: a memory cell, a V register, a timer, an immediate `nn`. -/
abbrev Byte := BitVec 8

/-- A 16-bit value: I, PC, a stack entry, an instruction word. -/
abbrev Word := BitVec 16

/-- The 12-bit instruction field `nnn`. -/
abbrev Addr12 := BitVec 12

/-- A 4-bit instruction field, or the number of one of the 16 keys. -/
abbrev Nibble := BitVec 4

/-- The number of a general register V0 to VF. -/
abbrev RegIdx := Fin 16

/-- VF, the register that doubles as the flag output (10_state.md R11). -/
abbrev regF : RegIdx := 15

end Sys2Proof
end

