-- ==== Sys2Proof/Syntax.lean ====
section
/-! DEFINITION. The 35 instructions, one constructor per row of spec/opcode_table.json (30_encoding.md R55). -/

namespace Sys2Proof

/-- An instruction. The docstring of a constructor gives its pattern and its rule. -/
inductive Instr where
  /-- 00E0 `CLS` (44_display.md R107). -/
  | cls
  /-- 00EE `RET` (41_flow.md R76). -/
  | ret
  /-- 0NNN `SYS nnn` (41_flow.md R75). -/
  | sys (nnn : Addr12)
  /-- 1NNN `JP nnn` (41_flow.md R77). -/
  | jp (nnn : Addr12)
  /-- 2NNN `CALL nnn` (41_flow.md R78). -/
  | call (nnn : Addr12)
  /-- 3XNN `SE Vx, nn` (41_flow.md R79). -/
  | seImm (x : RegIdx) (nn : Byte)
  /-- 4XNN `SNE Vx, nn` (41_flow.md R80). -/
  | sneImm (x : RegIdx) (nn : Byte)
  /-- 5XY0 `SE Vx, Vy` (41_flow.md R81). -/
  | seReg (x y : RegIdx)
  /-- 6XNN `LD Vx, nn` (42_alu.md R86). -/
  | ldImm (x : RegIdx) (nn : Byte)
  /-- 7XNN `ADD Vx, nn` (42_alu.md R87). -/
  | addImm (x : RegIdx) (nn : Byte)
  /-- 8XY0 `LD Vx, Vy` (42_alu.md R88). -/
  | ldReg (x y : RegIdx)
  /-- 8XY1 `OR Vx, Vy` (42_alu.md R89). -/
  | orReg (x y : RegIdx)
  /-- 8XY2 `AND Vx, Vy` (42_alu.md R90). -/
  | andReg (x y : RegIdx)
  /-- 8XY3 `XOR Vx, Vy` (42_alu.md R91). -/
  | xorReg (x y : RegIdx)
  /-- 8XY4 `ADD Vx, Vy` (42_alu.md R92). -/
  | addReg (x y : RegIdx)
  /-- 8XY5 `SUB Vx, Vy` (42_alu.md R93). -/
  | sub (x y : RegIdx)
  /-- 8XY6 `SHR Vx, Vy` (42_alu.md R94). -/
  | shr (x y : RegIdx)
  /-- 8XY7 `SUBN Vx, Vy` (42_alu.md R95). -/
  | subn (x y : RegIdx)
  /-- 8XYE `SHL Vx, Vy` (42_alu.md R96). -/
  | shl (x y : RegIdx)
  /-- 9XY0 `SNE Vx, Vy` (41_flow.md R82). -/
  | sneReg (x y : RegIdx)
  /-- ANNN `LD I, nnn` (43_index_memory.md R100). -/
  | ldI (nnn : Addr12)
  /-- BNNN `JP V0, nnn` (41_flow.md R83). -/
  | jpOff (nnn : Addr12)
  /-- CXNN `RND Vx, nn` (42_alu.md R97). -/
  | rnd (x : RegIdx) (nn : Byte)
  /-- DXYN `DRW Vx, Vy, n` (44_display.md R108). -/
  | drw (x y : RegIdx) (n : Nibble)
  /-- EX9E `SKP Vx` (45_keypad_timers.md R113). -/
  | skp (x : RegIdx)
  /-- EXA1 `SKNP Vx` (45_keypad_timers.md R114). -/
  | sknp (x : RegIdx)
  /-- FX07 `LD Vx, DT` (45_keypad_timers.md R116). -/
  | getDt (x : RegIdx)
  /-- FX0A `LD Vx, K` (45_keypad_timers.md R115). -/
  | waitKey (x : RegIdx)
  /-- FX15 `LD DT, Vx` (45_keypad_timers.md R117). -/
  | setDt (x : RegIdx)
  /-- FX18 `LD ST, Vx` (45_keypad_timers.md R118). -/
  | setSt (x : RegIdx)
  /-- FX1E `ADD I, Vx` (43_index_memory.md R101). -/
  | addI (x : RegIdx)
  /-- FX29 `LD F, Vx` (43_index_memory.md R102). -/
  | ldF (x : RegIdx)
  /-- FX33 `LD B, Vx` (43_index_memory.md R103). -/
  | bcd (x : RegIdx)
  /-- FX55 `LD [I], Vx` (43_index_memory.md R104). -/
  | storeRegs (x : RegIdx)
  /-- FX65 `LD Vx, [I]` (43_index_memory.md R105). -/
  | loadRegs (x : RegIdx)
deriving DecidableEq, Repr

end Sys2Proof
end

