-- ==== Sys2Proof/WellFormed.lean ====
section
/-! DEFINITION. Which instruction terms the machine's words can name. Register numbers and immediates
carry their ranges in their types; what is left is one check: 0NNN does not name the words 0x00E0 and
0x00EE, which are 00E0 and 00EE (30_encoding.md R54, R57). -/

namespace Sys2Proof

/-- The operands of `i` are ones that an instruction word can carry. -/
def Instr.wellFormed : Instr → Bool
  | .sys nnn => nnn != 0x0E0#12 && nnn != 0x0EE#12
  | .cls | .ret | .jp _ | .call _ | .ldI _ | .jpOff _ => true
  | .seImm _ _ | .sneImm _ _ | .ldImm _ _ | .addImm _ _ | .rnd _ _ => true
  | .seReg _ _ | .sneReg _ _ | .ldReg _ _ | .orReg _ _ | .andReg _ _ | .xorReg _ _ => true
  | .addReg _ _ | .sub _ _ | .shr _ _ | .subn _ _ | .shl _ _ | .drw _ _ _ => true
  | .skp _ | .sknp _ | .getDt _ | .waitKey _ | .setDt _ | .setSt _ => true
  | .addI _ | .ldF _ | .bcd _ | .storeRegs _ | .loadRegs _ => true

end Sys2Proof
end

