-- ==== Sys2Proof/Config.lean ====
section
/-! DEFINITION. The configuration straps (00_scope.md R6, R8) and the free values. A parameter R6 gives
no default is an opaque constant: nothing can be proved of which value it has (92_eei_decisions.md D13). -/

namespace Sys2Proof

/-- What DXYN does at the edge of the grid (00_scope.md R6, 44_display.md R109). -/
inductive EdgePolicy where
  /-- Stop drawing that row or column. -/
  | clip
  /-- Continue modulo the grid. -/
  | wrap
deriving DecidableEq, Repr

/-- The configuration record, fixed when the core is constructed (00_scope.md R6). -/
structure Straps where
  /-- Cycles per second of the driving loop. Nothing in the core reads it (40_cycle.md R71). -/
  instructionsPerSecond : Nat
  /-- 8XY6 and 8XYE shift V[y] instead of V[x] (42_alu.md R94, R96). -/
  shiftCopiesVy : Bool
  /-- BNNN adds V[x] instead of V[0] (41_flow.md R83). -/
  jumpOffsetUsesVx : Bool
  /-- FX55 and FX65 advance I; despite its name it does not touch FX33 (90_conflicts.md C3). -/
  bcdAndLoadIncrementI : Bool
  /-- Clip or wrap (44_display.md R109). -/
  edgePolicy : EdgePolicy
  /-- W. -/
  displayWidth : Nat
  /-- H. -/
  displayHeight : Nat
  /-- FB (43_index_memory.md R102, 70_reset_and_hazards.md R153). -/
  fontBaseAddress : Nat
  /-- FX1E writes VF (43_index_memory.md R101; the name is the spec's, 90_conflicts.md C2). -/
  addISetsVf : Bool
deriving DecidableEq, Repr

/-- The legal ranges of R6 and R8. -/
abbrev Straps.legal (c : Straps) : Prop :=
  0 < c.instructionsPerSecond ∧ 1 ≤ c.displayWidth ∧ 1 ≤ c.displayHeight ∧ c.fontBaseAddress ≤ 4016

/-- Open strap of R6. DESIGN CHOICE, safe: no default is picked (log 1, log 2). The rate is this
number plus one, so that it is positive. -/
opaque Config.instructionsPerSecondLessOne : Nat
/-- Open strap of R6. DESIGN CHOICE, safe: no default is picked (log 1). -/
opaque Config.shiftCopiesVy : Bool
/-- Open strap of R6. DESIGN CHOICE, safe: no default is picked (log 1). -/
opaque Config.jumpOffsetUsesVx : Bool
/-- Open strap of R6. DESIGN CHOICE, safe: no default is picked (log 1). -/
opaque Config.bcdAndLoadIncrementI : Bool
/-- Open strap of R6: whether `edge_policy` is `wrap`. DESIGN CHOICE, safe: no default is picked (log 1). -/
opaque Config.edgePolicyIsWrap : Bool
/-- Open strap of R6, in the range of R8. DESIGN CHOICE, safe: no default is picked (log 1). -/
opaque Config.fontBaseAddress : Fin 4017

/-- The free value of CXNN: the byte the random port answers to its `k`-th call. Nothing is known of
any of them (60_exceptions.md R140). DESIGN CHOICE, safe (log 9). -/
opaque Config.randomByte : Nat → Byte

/-- A content of the state that nothing specifies: what a refused `Load` leaves behind
(60_exceptions.md R127). -/
structure Unspecified where
  /-- The memory cells, by address. -/
  byte : Nat → Byte
  /-- V0 to VF. -/
  register : RegIdx → Byte
  index : Word
  pc : Word
  /-- How many stack entries are live, within the capacity (10_state.md R20). -/
  depth : Fin 17
  /-- The live stack entries, newest first. -/
  entry : Nat → Word
  dt : Byte
  st : Byte
  /-- Whether a cell of the display is on, by its number. -/
  lit : Nat → Bool
deriving Inhabited

/-- The free value of a refused `Load`: the content the `k`-th one leaves. Nothing is known of any of them
(60_exceptions.md R127, 93_implementation_defined.md U11). DESIGN CHOICE, safe (log 26). -/
opaque Config.unspecified : Nat → Unspecified

/-- The straps of the machine after reset: R6's defaults, and the open constants where R6 gives none. -/
def Config.straps : Straps where
  instructionsPerSecond := Config.instructionsPerSecondLessOne + 1
  shiftCopiesVy := Config.shiftCopiesVy
  jumpOffsetUsesVx := Config.jumpOffsetUsesVx
  bcdAndLoadIncrementI := Config.bcdAndLoadIncrementI
  edgePolicy := if Config.edgePolicyIsWrap then .wrap else .clip
  displayWidth := 64
  displayHeight := 32
  fontBaseAddress := Config.fontBaseAddress.val
  addISetsVf := false

end Sys2Proof
end

