-- ==== Sys2Proof/Machine/State.lean ====
section
/-! DEFINITION. The state of the machine as plain data, its reset value, and the reasons a step can
stop (10_state.md R10 to R26; INVENTORY.md, "State"). -/

namespace Sys2Proof.Machine

/-- Memory: the cells that do not read 0, by rising address. An unlisted cell reads 0, the reset
contents (10_state.md R18, R26). -/
abbrev Memory := List Host.Cell

/-- The display buffer: the numbers `row * W + col` of the cells that are on, rising (10_state.md R17; log 14). -/
abbrev Display := List Nat

/-- The run state (10_state.md R19). -/
inductive Run where
  /-- Before the first `Load` and after a fatal error. -/
  | halted
  /-- Accepting `Cycle`. -/
  | running
deriving DecidableEq, Repr

/-- The two timers (10_state.md R15, R16). -/
inductive Timer where
  | delay
  | sound
deriving DecidableEq, Repr

/-- The errors a `Cycle` reports (60_exceptions.md R121). -/
inductive CycleError where
  /-- E1, with the offending address or key number (R122). -/
  | boundsViolation (info : Nat)
  /-- E2 (R123). -/
  | stackOverflow
  /-- E3 (R124). -/
  | stackUnderflow
  /-- E4, with the instruction word (R125). -/
  | unsupportedOpcode (w : Word)
  /-- E5 (R126). -/
  | cancelled
deriving DecidableEq, Repr

/-- Why a `Load` is refused. -/
inductive LoadRefusal where
  /-- LoadError, E6: more than 3584 program bytes (60_exceptions.md R127). -/
  | loadError
  /-- Straps outside their ranges (00_scope.md R8). -/
  | configurationRefused
  /-- A font that is not 80 bytes or overlaps the program (70_reset_and_hazards.md R153; log 21). -/
  | fontRefused
deriving DecidableEq, Repr

/-- What the core hands back to the host: the result of a `Cycle` (40_cycle.md R69), or that a `Load` was
refused (60_exceptions.md R127). -/
inductive Reply where
  | ok
  | error (e : CycleError)
  | loadRefused (why : LoadRefusal)
deriving DecidableEq, Repr

/-- The two host calls that may block the executor (60_exceptions.md R143). -/
inductive Wait where
  /-- `KeyWait` of an FX0A, whose destination register takes the key (45_keypad_timers.md R115). -/
  | key (x : RegIdx)
  /-- `Render` at the end of a 00E0 or DXYN (44_display.md R111). -/
  | render
deriving DecidableEq, Repr

/-- One move of an agent other than an instruction's execution, or the host's request for one
(40_cycle.md R70, 60_exceptions.md R134, R138, R141). -/
inductive Move where
  /-- The host issues `Cycle`. -/
  | cycle
  /-- The tick agent of a timer fires. -/
  | tick (t : Timer)
  /-- The keypad lines take these levels; bit `k` is key `k`. -/
  | keys (down : BitVec 16)
  /-- The keypad reports the next key press: the answer to a `KeyWait`. -/
  | press (k : Nibble)
  /-- The host releases a blocked `KeyWait`. -/
  | cancel
  /-- The display collaborator keeps the `Render` call that is made next: the executor blocks in it (log 13). -/
  | holdRender
  /-- The display collaborator returns from the `Render` call it kept (60_exceptions.md R143). -/
  | renderReturn
  /-- The host loads a font and a program. -/
  | load (font prog : List Byte)
  /-- The host tears the core down. -/
  | teardown
deriving DecidableEq, Repr

/-- The whole machine. The fields from `keypad` on are the model's own: the host's side of the ports
and the schedule (INVENTORY.md). -/
structure State where
  /-- The straps; no instruction and no move changes them (00_scope.md R6, 10_state.md R23). -/
  cfg : Straps
  /-- MEM (10_state.md R18). -/
  mem : Memory
  /-- V0 to VF (10_state.md R10). -/
  v : Vector Byte 16
  /-- I (10_state.md R12). -/
  index : Word
  /-- PC (10_state.md R13). -/
  pc : Word
  /-- The live stack entries, newest first; its length is SP (10_state.md R14; log 15). -/
  stack : List Word
  /-- DT (10_state.md R15). -/
  dt : Byte
  /-- ST (10_state.md R16). -/
  st : Byte
  /-- DISP (10_state.md R17). -/
  disp : Display
  /-- RUN (10_state.md R19). -/
  run : Run
  /-- The host call the executor is blocked in: the `KeyWait` of an FX0A (10_state.md R25; log 8) or a
  `Render` (60_exceptions.md R143; log 13). -/
  wait : Option Wait
  /-- The levels of the keypad port's lines (60_exceptions.md R138; log 7). -/
  keypad : BitVec 16
  /-- What the last `Cycle` to return, or a `Load` refused since, handed to the host (40_cycle.md R69; log 10). -/
  result : Option Reply
  /-- The snapshots handed to the display port, newest first (44_display.md R111; log 13). -/
  renders : List Display
  /-- How many random bytes have been drawn (60_exceptions.md R140; log 9). -/
  draws : Nat
  /-- How many `Load`s have been refused: the argument of the free value each leaves (log 26). -/
  refusedLoads : Nat
  /-- The moves to come, oldest first; when there is none the host issues `Cycle` (log 5). -/
  moves : List Move
  /-- `Teardown` has happened (60_exceptions.md R144; log 18). -/
  tornDown : Bool
deriving DecidableEq, Repr

/-- Why the machine has no further step. -/
inductive Fault where
  /-- Raised by `step` after `Teardown`: no agent of the core has a step (60_exceptions.md R144).
  Safe: nothing can be claimed of a state after it. -/
  | tornDown
deriving DecidableEq, Repr

/-- Moves the spec gives no step, and instructions without a meaning. -/
inductive Refusal where
  /-- Raised by no arm: every instruction has its meaning. Safe. -/
  | notModelled (mnemonic : String)
  /-- Raised by `step` for a `Cycle` while RUN is halted (40_cycle.md R65). Safe. -/
  | cycleWhileHalted
  /-- Raised by `step` for a `Cycle`, `Load` or `Teardown` while the executor is blocked: a `Cycle` is in
  progress (60_exceptions.md R141, 93_implementation_defined.md U14). Safe. -/
  | cycleInProgress
  /-- Raised by `step` for a `Cancel` while no FX0A waits (60_exceptions.md R141). Safe. -/
  | nothingToCancel
  /-- Raised by `step` when the display collaborator keeps or returns from a `Render` call that is not made
  (44_display.md R111). Safe. -/
  | noRenderCall
deriving DecidableEq, Repr

/-- The core between construction and the first `Load`: halted, everything zero or blank
(10_state.md R26, 70_reset_and_hazards.md R155). `Configure` is the argument (60_exceptions.md R141). -/
def State.construct (c : Straps) : State where
  cfg := c
  mem := []
  v := Vector.replicate 16 0#8
  index := 0#16
  pc := 0#16
  stack := []
  dt := 0#8
  st := 0#8
  disp := []
  run := .halted
  wait := none
  keypad := 0#16
  result := none
  renders := []
  draws := 0
  refusedLoads := 0
  moves := []
  tornDown := false

/-- The machine right after reset: the values of 10_state.md R26 after a `Load`, with no program and a
blank font, since the host supplies both (log 3). -/
def State.reset : State where
  cfg := Config.straps
  mem := []
  v := Vector.replicate 16 0#8
  index := 0#16
  pc := 0x200#16
  stack := []
  dt := 0#8
  st := 0#8
  disp := []
  run := .running
  wait := none
  keypad := 0#16
  result := none
  renders := []
  draws := 0
  refusedLoads := 0
  moves := []
  tornDown := false

end Sys2Proof.Machine
end

