-- ==== Sys2Proof/Machine/Ops.lean ====
section
/-! DEFINITION. The named operations over memory, registers, stack, timers, display and ports, and
the ends of a cycle: return, error, blocked. Every meaning is written over these. -/

namespace Sys2Proof.Machine

/-! ### Memory (20_memory.md) -/

/-- The last address of the one address space (20_memory.md R30). -/
def lastAddr : Nat := 4095

/-- The canonical form: addresses strictly rise and lie in the space, and no listed cell reads 0. -/
abbrev Memory.wf (m : Memory) : Prop :=
  m.Pairwise (fun p q => p.1 < q.1) ∧ ∀ c ∈ m, c.1 ≤ lastAddr ∧ c.2 ≠ 0#8

/-- The byte at an address; an unlisted cell reads 0 (10_state.md R26). -/
def Memory.get : Memory → Nat → Byte
  | [], _ => 0#8
  | c :: m, a => if c.1 = a then c.2 else Memory.get m a

/-- Put a cell in its place by address. -/
def Memory.insert (a : Nat) (b : Byte) : Memory → Memory
  | [] => [(a, b)]
  | c :: m => if a < c.1 then (a, b) :: c :: m else c :: Memory.insert a b m

/-- Store one byte, keeping the canonical form: storing 0 unlists the cell. -/
def Memory.set (m : Memory) (a : Nat) (b : Byte) : Memory :=
  let rest := m.filter (fun c => c.1 != a)
  if b = 0#8 then rest else Memory.insert a b rest

/-- `MemWrite` of a sequence at ascending addresses; it ends at the first address above 4095 and
answers that address, and what was written before it stands (20_memory.md R33, R37). -/
def Memory.store (m : Memory) (a : Nat) : List Byte → Memory × Option Nat
  | [] => (m, none)
  | b :: bs => if lastAddr < a then (m, some a) else Memory.store (Memory.set m a b) (a + 1) bs

/-- `MemRead` of a sequence at ascending addresses: the bytes before the first address above 4095, and
that address if there is one (20_memory.md R32, R37). -/
def Memory.load (m : Memory) (a : Nat) : Nat → List Byte × Option Nat
  | 0 => ([], none)
  | k + 1 =>
    if lastAddr < a then ([], some a)
    else (Memory.get m a :: (Memory.load m (a + 1) k).1, (Memory.load m (a + 1) k).2)

/-! ### Registers -/

/-- `V[x]` (10_state.md R10). -/
def State.getV (s : State) (x : RegIdx) : Byte := s.v[x.val]

/-- `V[x] <- b`. -/
def State.setV (s : State) (x : RegIdx) (b : Byte) : State := { s with v := s.v.set x.val b }

/-- `I <- w`. -/
def State.setIndex (s : State) (w : Word) : State := { s with index := w }

/-- `PC <- w`. -/
def State.setPc (s : State) (w : Word) : State := { s with pc := w }

/-- The fetch advance and the skip: PC moves by one instruction, modulo 65536 (10_state.md R21). -/
def State.advance (s : State) : State := { s with pc := s.pc + 2#16 }

/-- Advance once more when the condition of a skip holds (41_flow.md R79). -/
def State.skipIf (s : State) (c : Bool) : State := if c then s.advance else s

/-- Replace memory. -/
def State.setMem (s : State) (m : Memory) : State := { s with mem := m }

/-- The first registers take the bytes of a list, in order (43_index_memory.md R105). -/
def fillV (v : Vector Byte 16) (k : Nat) : List Byte → Vector Byte 16
  | [] => v
  | b :: bs => fillV (v.setIfInBounds k b) (k + 1) bs

/-- `V[0], V[1], ... <- bs`. -/
def State.fill (s : State) (bs : List Byte) : State := { s with v := fillV s.v 0 bs }

/-! ### Stack (10_state.md R14, R22) -/

/-- The capacity of the call stack. -/
def stackCapacity : Nat := 16

/-- `Push`: none when the stack is full. -/
def State.push (s : State) (w : Word) : Option State :=
  if s.stack.length < stackCapacity then some { s with stack := w :: s.stack } else none

/-- `Pop`: the newest entry and the state without it; none when the stack is empty. -/
def State.pop (s : State) : Option (Word × State) :=
  match s.stack with
  | [] => none
  | w :: rest => some (w, { s with stack := rest })

/-! ### Timers (20_memory.md R42) -/

/-- `TimerGet`. -/
def State.timerGet (s : State) : Timer → Byte
  | .delay => s.dt
  | .sound => s.st

/-- `TimerSet`. -/
def State.timerSet (s : State) (t : Timer) (b : Byte) : State :=
  match t with
  | .delay => { s with dt := b }
  | .sound => { s with st := b }

/-- `Tick`: one decrement of a timer above 0 (60_exceptions.md R134; log 6). -/
def State.tick (s : State) (t : Timer) : State :=
  if s.timerGet t = 0#8 then s else s.timerSet t (s.timerGet t - 1#8)

/-- The `SoundActive` output (60_exceptions.md R137). -/
def State.soundActive (s : State) : Bool := decide (0 < s.st.toNat)

/-! ### Display (10_state.md R17) -/

/-- The number of a cell, row by row. -/
def cellNumber (c : Straps) (col row : Nat) : Nat := row * c.displayWidth + col

/-- Put a number in its place. -/
def Display.insert (k : Nat) : Display → Display
  | [] => [k]
  | j :: d => if k < j then k :: j :: d else j :: Display.insert k d

/-- XOR one cell: on becomes off, off becomes on. -/
def Display.toggle (d : Display) (k : Nat) : Display :=
  if d.contains k then d.filter (fun j => j != k) else Display.insert k d

/-- `DISP[col,row]`. -/
def State.cell (s : State) (col row : Nat) : Bool := s.disp.contains (cellNumber s.cfg col row)

/-- Replace the display buffer. -/
def State.setDisp (s : State) (d : Display) : State := { s with disp := d }

/-- The canonical form of the display: cell numbers strictly rise and lie on the grid. -/
abbrev Display.wf (c : Straps) (d : Display) : Prop :=
  d.Pairwise (· < ·) ∧ ∀ k ∈ d, k < c.displayWidth * c.displayHeight

/-- `Render()`: the display port receives a snapshot of the buffer (44_display.md R111). -/
def State.render (s : State) : State := { s with renders := s.disp :: s.renders }

/-! ### Ports -/

/-- `KeyIsPressed(k)`: the level of line `k` at this moment (60_exceptions.md R138). -/
def State.keyIsPressed (s : State) (k : Nat) : Bool := s.keypad.getLsbD k

/-- The byte `RandomByte()` answers next: a free value (60_exceptions.md R140). -/
def State.randomByte (s : State) : Byte := Config.randomByte s.draws

/-- The draw is made. -/
def State.drawn (s : State) : State := { s with draws := s.draws + 1 }

/-! ### The end of a cycle: `ok` or an error (60_exceptions.md) -/

/-- Only a BoundsViolation is fatal (60_exceptions.md R121). -/
def CycleError.fatal : CycleError → Bool
  | .boundsViolation _ => true
  | .stackOverflow | .stackUnderflow | .unsupportedOpcode _ | .cancelled => false

/-- Error entry, the one operation of the machine that takes an exception: the error goes to the host as
the cycle's result, and a fatal one halts the core. Nothing else changes: no handler, no saved PC, no
mode (60_exceptions.md R130). There is no return from it: after a non-fatal error the host's next
`Cycle` fetches at PC, and after a fatal one only `Load` goes on (R131). -/
def State.raise (s : State) (e : CycleError) : State :=
  { s with result := some (.error e), run := if e.fatal then .halted else s.run }

/-- The cycle returns `ok` (40_cycle.md R69). -/
def State.finish (s : State) : State := { s with result := some .ok }

/-- The outcome of an instruction that completes. -/
def complete (s : State) : Host.Outcome State Fault Refusal := .next s.finish

/-- The outcome of an instruction that raises. -/
def fail (s : State) (e : CycleError) : Host.Outcome State Fault Refusal := .next (s.raise e)

/-- The outcome of an instruction whose accesses may have met an address above 4095, and how it goes on
where they met none. -/
def failOr (s : State) (bad : Option Nat) (done : State → Host.Outcome State Fault Refusal) :
    Host.Outcome State Fault Refusal :=
  match bad with
  | some a => fail s (.boundsViolation a)
  | none => done s

/-! ### Blocking in a host call (60_exceptions.md R143; log 8, log 13) -/

/-- The executor is blocked in a host call; its `Cycle` has not returned. -/
def State.block (s : State) (w : Wait) : State := { s with wait := some w }

/-- `KeyWait()` returns a key. -/
def State.deliver (s : State) (x : RegIdx) (k : Nibble) : State :=
  { s with wait := none, v := s.v.set x.val (k.setWidth 8), result := some .ok }

/-- The host releases the wait: Cancelled, and nothing is written (60_exceptions.md R126). -/
def State.cancelWait (s : State) : State := State.raise { s with wait := none } .cancelled

/-- The display collaborator returns from `Render()`, which changes no state of the core, and the `Cycle`
returns `ok` (44_display.md R111). -/
def State.returnRender (s : State) : State := State.finish { s with wait := none }

/-- The schedule without its first move. -/
def State.dropMove (s : State) : State := { s with moves := s.moves.tail }

/-- The end of a 00E0 or DXYN without error: the snapshot goes out; where the collaborator keeps the call the
executor is blocked in it, and otherwise it returns at once (44_display.md R111; log 13). -/
def renderEnd (s : State) : Host.Outcome State Fault Refusal :=
  match s.moves.head? with
  | some .holdRender => .next (s.render.dropMove.block .render)
  | _ => complete s.render

end Sys2Proof.Machine
end

