-- ==== Sys2Proof/Machine/Flags.lean ====
section
/-! DEFINITION. The values an instruction leaves in VF as a flag (10_state.md R11 and section 2). -/

namespace Sys2Proof.Machine

/-- A flag as the byte VF receives. -/
def flagByte (b : Bool) : Byte := if b then 1#8 else 0#8

/-- Carry of 8XY4: the exact sum exceeds 255 (42_alu.md R92). -/
def carry (a b : Byte) : Bool := decide (255 < a.toNat + b.toNat)

/-- No borrow of 8XY5 and 8XY7: minuend >= subtrahend (42_alu.md R93, R95). -/
def noBorrow (minuend subtrahend : Byte) : Bool := decide (subtrahend.toNat ≤ minuend.toNat)

/-- The bit 8XY6 shifts out (42_alu.md R94). -/
def lowBitOut (t : Byte) : Bool := t.getLsbD 0

/-- The bit 8XYE shifts out (42_alu.md R96). -/
def highBitOut (t : Byte) : Bool := t.getLsbD 7

/-- FX1E's overflow: the exact sum exceeds 0xFFF (43_index_memory.md R101). -/
def indexOverflow (i : Word) (a : Byte) : Bool := decide (0xFFF < i.toNat + a.toNat)

/-- `VF <- flag`. -/
def State.setFlag (s : State) (b : Bool) : State := s.setV regF (flagByte b)

end Sys2Proof.Machine
end

