-- ==== Sys2Proof/Machine/Operands.lean ====
section
/-! DEFINITION. The operand forms: what an instruction reads before it writes anything (00_scope.md R9). -/

namespace Sys2Proof.Machine

/-- The value 8XY6 and 8XYE shift (42_alu.md R94). -/
def State.shiftOperand (s : State) (x y : RegIdx) : Byte :=
  if s.cfg.shiftCopiesVy then s.getV y else s.getV x

/-- The register BNNN adds: V0, or the one named by the top nibble of `nnn` (41_flow.md R83). -/
def State.jumpOffsetReg (s : State) (nnn : Addr12) : RegIdx :=
  if s.cfg.jumpOffsetUsesVx then (nnn.extractLsb' 8 4).toFin else 0

/-- An 8-bit value in a 16-bit sum. -/
def toWord (b : Byte) : Word := b.setWidth 16

/-- A 12-bit address as a 16-bit value (30_encoding.md R52). -/
def addrWord (nnn : Addr12) : Word := nnn.setWidth 16

/-- The base of an index-plus-offset address, an unbounded integer (20_memory.md R34). -/
def State.base (s : State) : Nat := s.index.toNat

/-- The address of a font glyph, `FB + 5 * b` (43_index_memory.md R102). -/
def State.glyphAddr (s : State) (b : Byte) : Word := BitVec.ofNat 16 (s.cfg.fontBaseAddress + b.toNat * 5)

/-- The three decimal digits FX33 stores, hundreds first (43_index_memory.md R103). -/
def digits (a : Byte) : List Byte :=
  [BitVec.ofNat 8 (a.toNat / 100), BitVec.ofNat 8 (a.toNat / 10 % 10), BitVec.ofNat 8 (a.toNat % 10)]

/-- `V[0], ..., V[x]`, what FX55 stores (43_index_memory.md R104). -/
def State.firstRegs (s : State) (x : RegIdx) : List Byte := s.v.toList.take (x.val + 1)

/-- The optional increment of FX55 and FX65 (43_index_memory.md R104, R105). -/
def State.stepIndex (s : State) (x : RegIdx) : State :=
  if s.cfg.bcdAndLoadIncrementI then s.setIndex (s.index + BitVec.ofNat 16 (x.val + 1)) else s

/-- The column DXYN starts at (44_display.md R108). -/
def State.startCol (s : State) (x : RegIdx) : Nat := (s.getV x).toNat % s.cfg.displayWidth

/-- The row DXYN starts at (44_display.md R108). -/
def State.startRow (s : State) (y : RegIdx) : Nat := (s.getV y).toNat % s.cfg.displayHeight

end Sys2Proof.Machine
end

