-- ==== Sys2Proof/Machine/Alu.lean ====
section
/-! DEFINITION. Register and arithmetic instructions: 6XNN, 7XNN, 8XY0 to 8XYE, CXNN (42_alu.md). Operands
are sampled from the state on entry; where two writes meet in VF the one written last stands (R85, 00_scope.md R9). -/

namespace Sys2Proof.Machine

/-- 6XNN (R86). -/
def execLdImm (x : RegIdx) (nn : Byte) (s : State) : Host.Outcome State Fault Refusal :=
  complete (s.setV x nn)

/-- 7XNN (R87): no flag. -/
def execAddImm (x : RegIdx) (nn : Byte) (s : State) : Host.Outcome State Fault Refusal :=
  complete (s.setV x (s.getV x + nn))

/-- 8XY0 (R88). -/
def execLdReg (x y : RegIdx) (s : State) : Host.Outcome State Fault Refusal :=
  complete (s.setV x (s.getV y))

/-- 8XY1 (R89). -/
def execOrReg (x y : RegIdx) (s : State) : Host.Outcome State Fault Refusal :=
  complete (s.setV x (s.getV x ||| s.getV y))

/-- 8XY2 (R90). -/
def execAndReg (x y : RegIdx) (s : State) : Host.Outcome State Fault Refusal :=
  complete (s.setV x (s.getV x &&& s.getV y))

/-- 8XY3 (R91). -/
def execXorReg (x y : RegIdx) (s : State) : Host.Outcome State Fault Refusal :=
  complete (s.setV x (s.getV x ^^^ s.getV y))

/-- 8XY4 (R92): the sum, then the flag. -/
def execAddReg (x y : RegIdx) (s : State) : Host.Outcome State Fault Refusal :=
  complete ((s.setV x (s.getV x + s.getV y)).setFlag (carry (s.getV x) (s.getV y)))

/-- 8XY5 (R93): the flag, then the difference. -/
def execSub (x y : RegIdx) (s : State) : Host.Outcome State Fault Refusal :=
  complete ((s.setFlag (noBorrow (s.getV x) (s.getV y))).setV x (s.getV x - s.getV y))

/-- 8XY6 (R94): the flag, then the shifted value. -/
def execShr (x y : RegIdx) (s : State) : Host.Outcome State Fault Refusal :=
  complete ((s.setFlag (lowBitOut (s.shiftOperand x y))).setV x (s.shiftOperand x y >>> 1))

/-- 8XY7 (R95): the flag, then the difference. -/
def execSubn (x y : RegIdx) (s : State) : Host.Outcome State Fault Refusal :=
  complete ((s.setFlag (noBorrow (s.getV y) (s.getV x))).setV x (s.getV y - s.getV x))

/-- 8XYE (R96): the flag, then the shifted value. -/
def execShl (x y : RegIdx) (s : State) : Host.Outcome State Fault Refusal :=
  complete ((s.setFlag (highBitOut (s.shiftOperand x y))).setV x (s.shiftOperand x y <<< 1))

/-- CXNN (R97): the byte is a free value, a new one at every draw (60_exceptions.md R140). -/
def execRnd (x : RegIdx) (nn : Byte) (s : State) : Host.Outcome State Fault Refusal :=
  complete (s.drawn.setV x (s.randomByte &&& nn))

end Sys2Proof.Machine
end

