-- ==== Sys2Proof/Machine/Blitter.lean ====
section
/-! DEFINITION. The sprite blitter: XOR composition, collision, edge policy (44_display.md R108 to R110). -/

namespace Sys2Proof.Machine

/-- `TargetCol` with W and `TargetRow` with H: the grid coordinate of a raw one, or none where drawing
stops (44_display.md R109). -/
def target (p : EdgePolicy) (size t : Nat) : Option Nat :=
  if t < size then some t
  else match p with
    | .wrap => some (t % size)
    | .clip => none

/-- The picture so far and whether a cell has gone from on to off. -/
abbrev Canvas := Display × Bool

/-- XOR one cell and keep the collision (44_display.md R110). -/
def hitCell (cv : Canvas) (k : Nat) : Canvas := (Display.toggle cv.1 k, cv.2 || cv.1.contains k)

/-- The bit loop of one sprite row, from bit `8 - left`, the most significant bit first. -/
def drawBits (c : Straps) (row : Nat) (bits : Byte) (x0 : Nat) : (left : Nat) → Canvas → Canvas
  | 0, cv => cv
  | k + 1, cv =>
    match target c.edgePolicy c.displayWidth (x0 + (7 - k)) with
    | none => cv
    | some col =>
      drawBits c row bits x0 k (if bits.getLsbD k then hitCell cv (cellNumber c col row) else cv)

/-- The row loop from row `r`, `left` rows to go: the picture, and the address of the first sprite byte
that lies above 4095 if one is read (44_display.md R108). -/
def drawRows (c : Straps) (m : Memory) (base x0 y0 : Nat) : (left r : Nat) → Canvas → Canvas × Option Nat
  | 0, _, cv => (cv, none)
  | k + 1, r, cv =>
    match target c.edgePolicy c.displayHeight (y0 + r) with
    | none => (cv, none)
    | some row =>
      if lastAddr < base + r then (cv, some (base + r))
      else drawRows c m base x0 y0 k (r + 1) (drawBits c row (Memory.get m (base + r)) x0 8 cv)

end Sys2Proof.Machine
end

