-- ==== Sys2Proof/Machine/Display.lean ====
section
/-! DEFINITION. The display instructions 00E0 and DXYN (44_display.md). -/

namespace Sys2Proof.Machine

/-- 00E0 (R107). -/
def execCls (s : State) : Host.Outcome State Fault Refusal :=
  renderEnd (s.setDisp [])

/-- DXYN (R108): the operands are sampled, VF is zeroed, the rows are drawn. A bad sprite address leaves
the rows drawn so far and the flag so far, and renders nothing (60_exceptions.md R130). -/
def execDrw (x y : RegIdx) (n : Nibble) (s : State) : Host.Outcome State Fault Refusal :=
  let r := drawRows s.cfg s.mem s.base (s.startCol x) (s.startRow y) n.toNat 0 (s.disp, false)
  failOr ((s.setDisp r.1.1).setFlag r.1.2) r.2 renderEnd

end Sys2Proof.Machine
end

