-- ==== Sys2Proof/Machine/Flow.lean ====
section
/-! DEFINITION. Control flow: 0NNN, 00EE, 1NNN, 2NNN, 3XNN, 4XNN, 5XY0, 9XY0, BNNN (41_flow.md). On entry
PC already holds the instruction's address + 2 (00_scope.md R9). -/

namespace Sys2Proof.Machine

/-- 0NNN (R75): a no-op; `nnn` is ignored. -/
def execSys (_nnn : Addr12) (s : State) : Host.Outcome State Fault Refusal :=
  complete s

/-- 00EE (R76). -/
def execRet (s : State) : Host.Outcome State Fault Refusal :=
  match s.pop with
  | none => fail s .stackUnderflow
  | some (w, t) => complete (t.setPc w)

/-- 1NNN (R77). -/
def execJp (nnn : Addr12) (s : State) : Host.Outcome State Fault Refusal :=
  complete (s.setPc (addrWord nnn))

/-- 2NNN (R78). -/
def execCall (nnn : Addr12) (s : State) : Host.Outcome State Fault Refusal :=
  match s.push s.pc with
  | none => fail s .stackOverflow
  | some t => complete (t.setPc (addrWord nnn))

/-- 3XNN (R79). -/
def execSeImm (x : RegIdx) (nn : Byte) (s : State) : Host.Outcome State Fault Refusal :=
  complete (s.skipIf (s.getV x == nn))

/-- 4XNN (R80). -/
def execSneImm (x : RegIdx) (nn : Byte) (s : State) : Host.Outcome State Fault Refusal :=
  complete (s.skipIf (s.getV x != nn))

/-- 5XY0 (R81). -/
def execSeReg (x y : RegIdx) (s : State) : Host.Outcome State Fault Refusal :=
  complete (s.skipIf (s.getV x == s.getV y))

/-- 9XY0 (R82). -/
def execSneReg (x y : RegIdx) (s : State) : Host.Outcome State Fault Refusal :=
  complete (s.skipIf (s.getV x != s.getV y))

/-- BNNN (R83): the sum is not reduced modulo 4096. -/
def execJpOff (nnn : Addr12) (s : State) : Host.Outcome State Fault Refusal :=
  complete (s.setPc (addrWord nnn + toWord (s.getV (s.jumpOffsetReg nnn))))

end Sys2Proof.Machine
end

