-- ==== Sys2Proof/Machine/IndexMemory.lean ====
section
/-! DEFINITION. Index register and memory: ANNN, FX1E, FX29, FX33, FX55, FX65 (43_index_memory.md). An access
above 4095 raises a fatal BoundsViolation, and what was moved before it stands (60_exceptions.md R130). -/

namespace Sys2Proof.Machine

/-- ANNN (R100). -/
def execLdI (nnn : Addr12) (s : State) : Host.Outcome State Fault Refusal :=
  complete (s.setIndex (addrWord nnn))

/-- FX1E (R101): VF only under the strap. -/
def execAddI (x : RegIdx) (s : State) : Host.Outcome State Fault Refusal :=
  let t := s.setIndex (s.index + toWord (s.getV x))
  complete (if s.cfg.addISetsVf then t.setFlag (indexOverflow s.index (s.getV x)) else t)

/-- FX29 (R102): the whole of V[x], no mask. -/
def execLdF (x : RegIdx) (s : State) : Host.Outcome State Fault Refusal :=
  complete (s.setIndex (s.glyphAddr (s.getV x)))

/-- FX33 (R103): I stays under every setting. -/
def execBcd (x : RegIdx) (s : State) : Host.Outcome State Fault Refusal :=
  let r := Memory.store s.mem s.base (digits (s.getV x))
  failOr (s.setMem r.1) r.2 complete

/-- FX55 (R104). -/
def execStoreRegs (x : RegIdx) (s : State) : Host.Outcome State Fault Refusal :=
  let r := Memory.store s.mem s.base (s.firstRegs x)
  failOr (s.setMem r.1) r.2 (fun t => complete (t.stepIndex x))

/-- FX65 (R105). -/
def execLoadRegs (x : RegIdx) (s : State) : Host.Outcome State Fault Refusal :=
  let r := Memory.load s.mem s.base (x.val + 1)
  failOr (s.fill r.1) r.2 (fun t => complete (t.stepIndex x))

end Sys2Proof.Machine
end

