-- ==== Sys2Proof/Machine/KeypadTimers.lean ====
section
/-! DEFINITION. Keypad and timers: EX9E, EXA1, FX0A, FX07, FX15, FX18 (45_keypad_timers.md). -/

namespace Sys2Proof.Machine

/-- EX9E (R113): a key number above 15 is a BoundsViolation before the port is asked (R119). -/
def execSkp (x : RegIdx) (s : State) : Host.Outcome State Fault Refusal :=
  let k := (s.getV x).toNat
  if 15 < k then fail s (.boundsViolation k) else complete (s.skipIf (s.keyIsPressed k))

/-- EXA1 (R114). -/
def execSknp (x : RegIdx) (s : State) : Host.Outcome State Fault Refusal :=
  let k := (s.getV x).toNat
  if 15 < k then fail s (.boundsViolation k) else complete (s.skipIf (!s.keyIsPressed k))

/-- FX07 (R116). -/
def execGetDt (x : RegIdx) (s : State) : Host.Outcome State Fault Refusal :=
  complete (s.setV x (s.timerGet .delay))

/-- FX0A (R115): the wait begins; if the agents' next move answers it, it ends at once, and otherwise the
executor is blocked and the answer comes in a later step (40_cycle.md R70; log 8). -/
def execWaitKey (x : RegIdx) (s : State) : Host.Outcome State Fault Refusal :=
  match s.moves.head? with
  | some (.press k) => .next (s.dropMove.deliver x k)
  | some .cancel => .next s.dropMove.cancelWait
  | _ => .next (s.block (.key x))

/-- FX15 (R117). -/
def execSetDt (x : RegIdx) (s : State) : Host.Outcome State Fault Refusal :=
  complete (s.timerSet .delay (s.getV x))

/-- FX18 (R118). -/
def execSetSt (x : RegIdx) (s : State) : Host.Outcome State Fault Refusal :=
  complete (s.timerSet .sound (s.getV x))

end Sys2Proof.Machine
end

