-- ==== Sys2Proof/Machine/Cycle.lean ====
section
/-! DEFINITION. The `Cycle` operation: fetch, decode, execute (40_cycle.md R65 to R69), and the placing of
an instruction where the next fetch reads. -/

namespace Sys2Proof.Machine

/-- Fetch: the two bytes at PC, or the first address above 4095 (R66). -/
def State.fetch (s : State) : Except Nat (Byte × Byte) :=
  if lastAddr < s.pc.toNat then .error s.pc.toNat
  else if lastAddr < s.pc.toNat + 1 then .error (s.pc.toNat + 1)
  else .ok (Memory.get s.mem s.pc.toNat, Memory.get s.mem (s.pc.toNat + 1))

/-- Decode and execute two fetched bytes on the state in which PC is already advanced (R67, R68). -/
def runBytes (hi lo : Byte) (s : State) : Host.Outcome State Fault Refusal :=
  match decode [hi, lo] with
  | .ok (i, _) => exec i s
  | .error _ => fail s (.unsupportedOpcode (wordOfBytes hi lo))

/-- One `Cycle`: refused while halted (R65); the reads precede the advance (R66). -/
def cycle (s : State) : Host.Outcome State Fault Refusal :=
  match s.run with
  | .halted => .refused .cycleWhileHalted
  | .running =>
    match s.fetch with
    | .error a => fail s (.boundsViolation a)
    | .ok (hi, lo) => runBytes hi lo s.advance

/-- Where the next instruction is placed: at PC, or at the entry point if no instruction fits at PC. -/
def State.fetchSite (s : State) : Word := if s.pc.toNat < lastAddr then s.pc else 0x200#16

/-- The instruction `w` stored where `step` fetches next, on a core that takes a `Cycle` next (log 4). -/
def State.placed (s : State) (w : Word) : State :=
  { s with
    pc := s.fetchSite
    mem := (Memory.store s.mem s.fetchSite.toNat [highByte w, lowByte w]).1
    run := .running
    wait := none
    tornDown := false
    moves := .cycle :: s.moves }

end Sys2Proof.Machine
end

