-- ==== Sys2Proof/Machine/Moves.lean ====
section
/-! DEFINITION. The moves of the tick agents and of the host (60_exceptions.md R134 to R144), `Load` among
them (70_reset_and_hazards.md R151). -/

namespace Sys2Proof.Machine

/-- The entry point and load address (70_reset_and_hazards.md R154). -/
def entryPoint : Nat := 0x200

/-- The size of the font (70_reset_and_hazards.md R153). -/
def fontSize : Nat := 80

/-- The largest program (70_reset_and_hazards.md R152). -/
def maxProgram : Nat := 3584

/-- The font region and the program region share no address (00_scope.md R8). -/
def fontClear (fb len : Nat) : Bool := decide (fb + fontSize ≤ entryPoint ∨ entryPoint + len ≤ fb ∨ len = 0)

/-- Memory after `Load`: zero, then the font, then the program (70_reset_and_hazards.md R151). -/
def loadMemory (fb : Nat) (font prog : List Byte) : Memory :=
  (Memory.store (Memory.store [] fb font).1 entryPoint prog).1

/-- The core state after `Load`; no `Cycle` has returned since, and the rest of the host's side of the
ports stays (70_reset_and_hazards.md R151; log 25). -/
def State.loaded (s : State) (font prog : List Byte) : State :=
  { s with
    mem := loadMemory s.cfg.fontBaseAddress font prog
    v := Vector.replicate 16 0#8
    index := 0#16
    stack := []
    dt := 0#8
    st := 0#8
    disp := []
    pc := BitVec.ofNat 16 entryPoint
    run := .running
    result := none }

/-- What refuses a `Load`, if anything does (60_exceptions.md R127, 00_scope.md R8). -/
def loadRefusal (c : Straps) (font prog : List Byte) : Option LoadRefusal :=
  if maxProgram < prog.length then some .loadError
  else if ¬ c.legal then some .configurationRefused
  else if font.length ≠ fontSize ∨ fontClear c.fontBaseAddress prog.length = false then some .fontRefused
  else none

/-- The memory of an unspecified content, in canonical form. -/
@[irreducible] def unspecifiedMemory (u : Unspecified) : Memory :=
  (Memory.store [] 0 ((List.range (lastAddr + 1)).map u.byte)).1

/-- The core state after a refused `Load`: RUN is halted, and everything else of the core but its straps is a
free value in canonical form (60_exceptions.md R127; log 16, log 26). -/
def State.loadRefused (s : State) (why : LoadRefusal) : State :=
  let u := Config.unspecified s.refusedLoads
  { s with
    mem := unspecifiedMemory u
    v := Vector.ofFn u.register
    index := u.index
    pc := u.pc
    stack := (List.range u.depth.val).map u.entry
    dt := u.dt
    st := u.st
    disp := (List.range (s.cfg.displayWidth * s.cfg.displayHeight)).filter u.lit
    run := .halted
    result := some (.loadRefused why)
    refusedLoads := s.refusedLoads + 1 }

/-- `Load`: accepted, or refused (70_reset_and_hazards.md R151, 60_exceptions.md R127). -/
def loadCore (font prog : List Byte) (s : State) : Host.Outcome State Fault Refusal :=
  match loadRefusal s.cfg font prog with
  | none => .next (s.loaded font prog)
  | some why => .next (s.loadRefused why)

/-- A move while no `Cycle` is in progress. -/
def moveFree (m : Move) (s : State) : Host.Outcome State Fault Refusal :=
  match m with
  | .cycle => cycle s
  | .tick t => .next (s.tick t)
  | .keys down => .next { s with keypad := down }
  | .press _ => .next s
  | .cancel => .refused .nothingToCancel
  | .holdRender | .renderReturn => .refused .noRenderCall
  | .load font prog => loadCore font prog s
  | .teardown => .next { s with tornDown := true }

/-- A move while the executor is blocked in a `KeyWait` for register `x` (60_exceptions.md R141, R143). -/
def moveInKeyWait (x : RegIdx) (m : Move) (s : State) : Host.Outcome State Fault Refusal :=
  match m with
  | .tick t => .next (s.tick t)
  | .keys down => .next { s with keypad := down }
  | .press k => .next (s.deliver x k)
  | .cancel => .next s.cancelWait
  | .holdRender | .renderReturn => .refused .noRenderCall
  | .cycle | .load _ _ | .teardown => .refused .cycleInProgress

/-- A move while the executor is blocked in a `Render`; `Cancel` releases only a `KeyWait`
(60_exceptions.md R141, R143). -/
def moveInRender (m : Move) (s : State) : Host.Outcome State Fault Refusal :=
  match m with
  | .tick t => .next (s.tick t)
  | .keys down => .next { s with keypad := down }
  | .press _ => .next s
  | .cancel => .refused .nothingToCancel
  | .renderReturn => .next s.returnRender
  | .holdRender => .refused .noRenderCall
  | .cycle | .load _ _ | .teardown => .refused .cycleInProgress

/-- The next scheduled move, taken off the schedule. -/
def nextMove (m : Move) (s : State) : Host.Outcome State Fault Refusal :=
  match s.wait with
  | none => moveFree m s.dropMove
  | some (.key x) => moveInKeyWait x m s.dropMove
  | some .render => moveInRender m s.dropMove

/-- No move is scheduled: the host issues one more `Cycle`; a blocked executor has no step and stays as it is
(93_implementation_defined.md U16; log 5). -/
def defaultMove (s : State) : Host.Outcome State Fault Refusal :=
  match s.wait with
  | none => cycle s
  | some _ => .next s

end Sys2Proof.Machine
end

