-- ==== Sys2Proof/Machine/Step.lean ====
section
/-! DEFINITION. One step of the whole machine, a function of its state: `State.moves` says which agent
moves (40_cycle.md R70). -/

namespace Sys2Proof.Machine

/-- One step: the next scheduled move, or a `Cycle` when none is scheduled; none after `Teardown`. -/
def step (s : State) : Host.Outcome State Fault Refusal :=
  if s.tornDown then .fault .tornDown
  else match s.moves with
    | [] => defaultMove s
    | m :: _ => nextMove m s

/-- `s` with the table's word stored where `step` fetches next, and a `Cycle` as the next move (log 4). -/
def State.withFetchWord (s : State) (nbits w : Nat) : State :=
  s.placed (tableWord nbits w)

end Sys2Proof.Machine
end

