-- ==== Sys2Proof/Safety.lean ====
section
/-! DEFINITION. What claims are stated in: the parts of the state and the frame, the parts each instruction
may write (10_state.md R27), which instruction a step executes, the declarative reading of a sprite, and
the machine's invariant. -/

namespace Sys2Proof.Machine

/-- A part of the state that an instruction may or may not touch: a register, one memory byte, or
another field. -/
inductive Part where
  | v (r : RegIdx)
  | mem (a : Nat)
  | index
  | pc
  | stack
  | dt
  | st
  | disp
  | run
  | wait
  | result
  | renders
  | draws
  | refusedLoads
  | moves
  | keypad
  | cfg
  | tornDown
deriving DecidableEq, Repr

/-- Two states agree on a part; a memory byte is compared by reading it. -/
def Agree (s t : State) : Part → Prop
  | .v r => t.getV r = s.getV r
  | .mem a => Memory.get t.mem a = Memory.get s.mem a
  | .index => t.index = s.index
  | .pc => t.pc = s.pc
  | .stack => t.stack = s.stack
  | .dt => t.dt = s.dt
  | .st => t.st = s.st
  | .disp => t.disp = s.disp
  | .run => t.run = s.run
  | .wait => t.wait = s.wait
  | .result => t.result = s.result
  | .renders => t.renders = s.renders
  | .draws => t.draws = s.draws
  | .refusedLoads => t.refusedLoads = s.refusedLoads
  | .moves => t.moves = s.moves
  | .keypad => t.keypad = s.keypad
  | .cfg => t.cfg = s.cfg
  | .tornDown => t.tornDown = s.tornDown

/-- The frame: every part but the listed ones is as it was. -/
def ChangesOnly (ps : List Part) (s t : State) : Prop := ∀ p, p ∉ ps → Agree s t p

/-- The bytes at `count` addresses from I on (20_memory.md R34). -/
def State.bytesFromIndex (s : State) (count : Nat) : List Part :=
  (List.range count).map (fun k => .mem (s.base + k))

/-- Registers V0 to Vx. -/
def regsUpTo (x : RegIdx) : List Part :=
  ((List.finRange 16).filter (fun r => r ≤ x)).map .v

/-- What an instruction may write: the access summary of 10_state.md R27, with its quirk columns under
their straps, PC only for the control transfers (41_flow.md R84), the cycle's result, and RUN only where
a BoundsViolation can be raised (60_exceptions.md R122). The wait of FX0A, 00E0 and DXYN for the host and the
schedule that says what the host does are the model's (log 8, log 13). -/
def State.mayWrite (s : State) : Instr → List Part
  | .cls => [.result, .disp, .renders, .wait, .moves]
  | .ret | .call _ => [.result, .pc, .stack]
  | .sys _ => [.result]
  | .jp _ | .jpOff _ => [.result, .pc]
  | .seImm _ _ | .sneImm _ _ | .seReg _ _ | .sneReg _ _ => [.result, .pc]
  | .ldImm x _ | .addImm x _ | .ldReg x _ | .orReg x _ | .andReg x _ | .xorReg x _ => [.result, .v x]
  | .addReg x _ | .sub x _ | .shr x _ | .subn x _ | .shl x _ => [.result, .v x, .v regF]
  | .ldI _ | .ldF _ => [.result, .index]
  | .rnd x _ => [.result, .v x, .draws]
  | .drw _ _ _ => [.result, .run, .v regF, .disp, .renders, .wait, .moves]
  | .skp _ | .sknp _ => [.result, .run, .pc]
  | .getDt x => [.result, .v x]
  | .waitKey x => [.result, .v x, .wait, .moves]
  | .setDt _ => [.result, .dt]
  | .setSt _ => [.result, .st]
  | .addI _ => if s.cfg.addISetsVf then [.result, .index, .v regF] else [.result, .index]
  | .bcd _ => .result :: .run :: s.bytesFromIndex 3
  | .storeRegs x =>
    .result :: .run :: s.bytesFromIndex (x.val + 1) ++ (if s.cfg.bcdAndLoadIncrementI then [.index] else [])
  | .loadRegs x =>
    .result :: .run :: regsUpTo x ++ (if s.cfg.bcdAndLoadIncrementI then [.index] else [])

/-- The state an instruction executes in: PC is advanced and the host's request is off the schedule
(40_cycle.md R66). -/
def State.atExecute (s : State) : State := { s with pc := s.pc + 2#16, moves := s.moves.tail }

/-- The next step is a `Cycle`: none is in progress, and the schedule says so or is empty (log 5). -/
def State.cyclesNext (s : State) : Prop :=
  s.tornDown = false ∧ s.wait = none ∧ (s.moves = [] ∨ s.moves.head? = some .cycle)

/-- The next step is a `Cycle` of the running core that fetches the word `w` (40_cycle.md R65, R66;
30_encoding.md R50). -/
def State.fetchesNext (s : State) (w : Word) : Prop :=
  s.cyclesNext ∧ s.run = .running ∧ s.pc.toNat ≤ 4094 ∧
    w.toNat = (Memory.get s.mem s.pc.toNat).toNat * 256 + (Memory.get s.mem (s.pc.toNat + 1)).toNat

/-- The next step executes the instruction `i`. -/
def State.executesNext (s : State) (i : Instr) : Prop := ∃ w, s.fetchesNext w ∧ decodeWord w = .ok i

/-- The numbers of the cells a sprite's 1 bits hit, in the order of 44_display.md R108: row by row, the most
significant bit first, what `TargetRow` and `TargetCol` report as off the grid left out. -/
def spriteHits (c : Straps) (m : Memory) (base x0 y0 n : Nat) : List Nat :=
  (List.range n).flatMap fun r =>
    match target c.edgePolicy c.displayHeight (y0 + r) with
    | none => []
    | some row =>
      (List.range 8).filterMap fun b =>
        if (Memory.get m (base + r)).getLsbD (7 - b) then
          (target c.edgePolicy c.displayWidth (x0 + b)).map (fun col => cellNumber c col row)
        else none

/-- The hits of a DXYN in a state, its operands sampled (44_display.md R108). -/
def State.drawHits (s : State) (x y : RegIdx) (n : Nibble) : List Nat :=
  spriteHits s.cfg s.mem s.base (s.startCol x) (s.startRow y) n.toNat

/-- The sprite rows that are read: all under `wrap`, those on the grid under `clip` (44_display.md R108). -/
def State.rowsRead (s : State) (y : RegIdx) (n : Nibble) : Nat :=
  match s.cfg.edgePolicy with
  | .wrap => n.toNat
  | .clip => min n.toNat (s.cfg.displayHeight - s.startRow y)

/-- How a 00E0 or DXYN that meets no error ends: the display port has got the picture as it stands. The
collaborator returns at once, and the cycle with it; or it keeps the call, and the executor is blocked with the
cycle's result as it was (44_display.md R111; log 13). `ps` are the parts the instruction writes itself. -/
def EndsInRender (ps : List Part) (s t : State) : Prop :=
  t.renders = t.disp :: s.renders ∧
  (s.moves.head? ≠ some .holdRender → t.result = some .ok ∧ ChangesOnly (.result :: .renders :: ps) s t) ∧
  (∀ rest, s.moves = .holdRender :: rest → t.wait = some .render ∧ t.moves = rest ∧
    ChangesOnly (.wait :: .moves :: .renders :: ps) s t)

/-- A `Load` the host may make: legal straps, 80 font bytes, at most 3584 program bytes, font and program apart
(00_scope.md R8, 60_exceptions.md R127, 70_reset_and_hazards.md R153; log 21). -/
def loadAllowed (c : Straps) (font prog : List Byte) : Prop :=
  c.legal ∧ font.length = 80 ∧ prog.length ≤ 3584 ∧
    (c.fontBaseAddress + 80 ≤ 0x200 ∨ 0x200 + prog.length ≤ c.fontBaseAddress ∨ prog = [])

/-- What went to the host says that the core has halted: a BoundsViolation (60_exceptions.md R122) or a refused
`Load` (R127). -/
def haltReported : Option Reply → Bool
  | some (.error (.boundsViolation _)) => true
  | some (.loadRefused _) => true
  | _ => false

/-- The invariant of the machine: memory and display are in canonical form, the stack is within its
capacity (10_state.md R20), the straps are legal (00_scope.md R8), only a running core is blocked, and a core that
reported a BoundsViolation or a refused `Load` is halted (10_state.md R19, 60_exceptions.md R127). -/
abbrev State.Inv (s : State) : Prop :=
  Memory.wf s.mem ∧ Display.wf s.cfg s.disp ∧ s.stack.length ≤ 16 ∧ s.cfg.legal ∧
    (s.wait ≠ none → s.run = .running) ∧ (haltReported s.result = true → s.run = .halted)

end Sys2Proof.Machine
end

