-- ==== Sys2Proof/Certificates/Slice0/Obligations.lean ====
section
/-! DEFINITION. The statements for the provers, from the numbered rules of spec/. A statement about one
instruction gives its encoding, that it completes and with what values, and its frame: `ChangesOnly ps`
says that every part of the state not listed in `ps` is as it was, every byte of memory among them. -/

open Sys2Proof Sys2Proof.Machine

/-! ### Encoding (30_encoding.md) -/

/-- Words the spec writes out, read as the instructions they stand for, and words it calls unsupported
(30_encoding.md sections 3 and 4; 95_test_vectors.md). -/
def Obligations.SpecWordsDecode : Prop :=
  decodeWord 0x00E0#16 = .ok .cls ∧ decodeWord 0x00EE#16 = .ok .ret ∧
  decodeWord 0x0FF0#16 = .ok (.sys 0xFF0#12) ∧ decodeWord 0x222A#16 = .ok (.call 0x22A#12) ∧
  decodeWord 0x76FF#16 = .ok (.addImm 6 0xFF#8) ∧ decodeWord 0x812E#16 = .ok (.shl 1 2) ∧
  decodeWord 0xC30F#16 = .ok (.rnd 3 0x0F#8) ∧ decodeWord 0xD125#16 = .ok (.drw 1 2 5#4) ∧
  decodeWord 0xE5A1#16 = .ok (.sknp 5) ∧ decodeWord 0xF265#16 = .ok (.loadRegs 2) ∧
  decodeWord 0x5121#16 = .error (.unsupported 0x5121#16) ∧
  decodeWord 0xF175#16 = .error (.unsupported 0xF175#16)

/-- Decoding the two bytes of any well-formed instruction gives it back, with the bytes after it
(30_encoding.md sections 1 to 3). -/
def Obligations.DecodeInvertsEncode : Prop :=
  ∀ (i : Instr) (rest : List Byte), i.wellFormed = true → decode (encodeBytes i ++ rest) = .ok (i, rest)

/-- A word that decodes to an instruction is that instruction's one encoding, and the instruction is
well-formed: no two words name one instruction term (30_encoding.md section 3). -/
def Obligations.DecodedWordIsItsEncoding : Prop :=
  ∀ (w : Word) (i : Instr), decodeWord w = .ok i → i.wellFormed = true ∧ encode i = w

/-- The words without an instruction are exactly those of 30_encoding.md section 4: in groups 5 and 9 the
low nibble is not 0, in group 8 it is 8 to D or F, in groups E and F the low byte is not in the table. -/
def Obligations.UnsupportedWordsAreExactly : Prop :=
  ∀ w : Word,
    ((∃ e, decodeWord w = .error e) ↔ decodeWord w = .error (.unsupported w)) ∧
    (decodeWord w = .error (.unsupported w) ↔
      (w.toNat / 4096 = 5 ∧ w.toNat % 16 ≠ 0) ∨
      (w.toNat / 4096 = 8 ∧ w.toNat % 16 ∈ [8, 9, 10, 11, 12, 13, 15]) ∨
      (w.toNat / 4096 = 9 ∧ w.toNat % 16 ≠ 0) ∨
      (w.toNat / 4096 = 14 ∧ w.toNat % 256 ∉ [0x9E, 0xA1]) ∨
      (w.toNat / 4096 = 15 ∧
        w.toNat % 256 ∉ [0x07, 0x0A, 0x15, 0x18, 0x1E, 0x29, 0x33, 0x55, 0x65]))

/-! ### The cycle (40_cycle.md) -/

/-- A step of a running core whose next two bytes, high byte first, decode to an instruction is that
instruction's meaning on the state with PC advanced by 2 (40_cycle.md section 1); the host's request comes off
the model's schedule (log 5). -/
def Obligations.StepRunsDecodedInstruction : Prop :=
  ∀ (s : State) (i : Instr), s.executesNext i → step s = exec i s.atExecute

/-- A fetch above 4094 is a fatal BoundsViolation with the first bad address; PC and everything else but the
result and RUN stay (the spec's decision D4). -/
def Obligations.FetchAboveMemoryHalts : Prop :=
  ∀ s : State, s.cyclesNext → s.run = .running → 4095 ≤ s.pc.toNat →
    ∃ t, step s = .next t ∧
      t.result = some (.error (.boundsViolation (if s.pc.toNat = 4095 then 4096 else s.pc.toNat))) ∧
      t.run = .halted ∧ t.moves = s.moves.tail ∧ ChangesOnly [.result, .run, .moves] s t

/-- A fetched word without an instruction reports UnsupportedOpcode with that word; PC is A + 2, the core
stays running and nothing else changes (the spec's decisions D2, D3). -/
def Obligations.UnsupportedWordIsReported : Prop :=
  ∀ (s : State) (w : Word) (e : DecodeError), s.fetchesNext w → decodeWord w = .error e →
    ∃ t, step s = .next t ∧ t.result = some (.error (.unsupportedOpcode w)) ∧ t.pc = s.pc + 2#16 ∧
      t.moves = s.moves.tail ∧ ChangesOnly [.result, .pc, .moves] s t

/-- A `Cycle` of a halted core is refused (the spec's decision D19). -/
def Obligations.HaltedCoreRefusesCycle : Prop :=
  ∀ s : State, s.cyclesNext → s.run = .halted → step s = .refused .cycleWhileHalted

/-- The idle fixpoint: a jump to its own address changes nothing but the cycle's result (40_cycle.md section 2). -/
def Obligations.JumpToSelfIsIdle : Prop :=
  ∀ (s : State) (w : Word), s.fetchesNext w → w.toNat = 0x1000 + s.pc.toNat →
    step s = .next { s with result := some .ok, moves := s.moves.tail }

/-- The model's placing of a table word (log 4): the next step runs the instruction it decodes to, at the
place it was stored, on a running core that is otherwise as it was. -/
def Obligations.PlacedWordRunsNext : Prop :=
  ∀ (s : State) (w : Nat) (i : Instr), decodeTableWord 16 w = some i →
    ∃ u, step (s.withFetchWord 16 w) = exec i u ∧ u.pc = s.fetchSite + 2#16 ∧ u.run = .running ∧
      u.wait = none ∧ u.tornDown = false ∧
      (Memory.get u.mem s.fetchSite.toNat).toNat * 256 + (Memory.get u.mem (s.fetchSite.toNat + 1)).toNat
        = w % 65536 ∧
      ChangesOnly [.pc, .run, .wait, .tornDown, .mem s.fetchSite.toNat, .mem (s.fetchSite.toNat + 1)] s u

/-! ### Reset, Load and whole-machine rules (10_state.md, 70_reset_and_hazards.md) -/

/-- What reset leaves: the values of 10_state.md section 12, with the model's empty program and blank font
(log 3) and the default straps of 00_scope.md section 5. -/
def Obligations.ResetLeavesTheSpecValues : Prop :=
  (∀ x, State.reset.getV x = 0#8) ∧ State.reset.index = 0#16 ∧ State.reset.pc = 0x200#16 ∧
  State.reset.stack = [] ∧ State.reset.dt = 0#8 ∧ State.reset.st = 0#8 ∧
  State.reset.soundActive = false ∧ (∀ col row, State.reset.cell col row = false) ∧
  (∀ a, Memory.get State.reset.mem a = 0#8) ∧ State.reset.run = .running ∧
  State.reset.cfg.displayWidth = 64 ∧ State.reset.cfg.displayHeight = 32 ∧
  State.reset.cfg.addISetsVf = false

/-- A `Load` the host may make: the font stands at FB, the program at 0x200, every other byte reads 0, the
registers, timers, stack and display are zero, PC is 0x200 and the core runs (the spec's decisions D14, D15);
the straps stay, and so does the host's side of the ports (log 25). -/
def Obligations.LoadPlacesFontAndProgram : Prop :=
  ∀ (s : State) (font prog : List Byte) (rest : List Move),
    s.tornDown = false → s.wait = none → s.moves = .load font prog :: rest → loadAllowed s.cfg font prog →
    ∃ t, step s = .next t ∧
      (∀ a, Memory.get t.mem a =
        if 0x200 ≤ a ∧ a < 0x200 + prog.length then prog.getD (a - 0x200) 0#8
        else if s.cfg.fontBaseAddress ≤ a ∧ a < s.cfg.fontBaseAddress + 80 then
          font.getD (a - s.cfg.fontBaseAddress) 0#8
        else 0#8) ∧
      (∀ x, t.getV x = 0#8) ∧ t.index = 0#16 ∧ t.pc = 0x200#16 ∧ t.stack = [] ∧ t.dt = 0#8 ∧ t.st = 0#8 ∧
      t.disp = [] ∧ t.run = .running ∧ t.wait = none ∧ t.result = none ∧ t.moves = rest ∧
      ∀ p ∈ [Part.cfg, .keypad, .renders, .draws, .refusedLoads, .tornDown], Agree s t p

/-- A `Load` the host may not make (a program above 3584 bytes, straps outside their ranges, a font that is not
80 bytes or overlaps the program) is refused with its ground, and RUN is halted after it; the straps and the host's
side of the ports stay, and nothing is said of the rest. A `Load` the host may make, next, starts the core (the
spec's decisions D14, D24; log 16, log 21). -/
def Obligations.LoadIsRefused : Prop :=
  ∀ (s : State) (font prog : List Byte) (rest : List Move) (why : LoadRefusal),
    s.tornDown = false → s.wait = none → s.moves = .load font prog :: rest →
    ((why = .loadError ∧ 3584 < prog.length) ∨
      (why = .configurationRefused ∧ prog.length ≤ 3584 ∧ ¬ s.cfg.legal) ∨
      (why = .fontRefused ∧ prog.length ≤ 3584 ∧ s.cfg.legal ∧
        (font.length ≠ 80 ∨ ∃ a, (s.cfg.fontBaseAddress ≤ a ∧ a < s.cfg.fontBaseAddress + 80) ∧
          0x200 ≤ a ∧ a < 0x200 + prog.length))) →
    ∃ t, step s = .next t ∧ t.run = .halted ∧ t.result = some (.loadRefused why) ∧ t.moves = rest ∧
      (∀ p ∈ [Part.cfg, .wait, .keypad, .renders, .draws, .tornDown], Agree s t p) ∧
      ∀ font' prog' rest', rest = .load font' prog' :: rest' → loadAllowed s.cfg font' prog' →
        ∃ u, step t = .next u ∧ u.run = .running ∧ u.pc = 0x200#16 ∧ u.moves = rest'

/-- The invariant holds at reset. -/
def Obligations.ResetMeetsInvariant : Prop := State.reset.Inv

/-- Every step keeps the invariant: memory and display in canonical form, at most 16 stack entries, legal
straps, only a running core is blocked, a core that reported a BoundsViolation or a refused `Load` is halted (the
canonical forms and the reply are the model's: log 10, log 14, log 16, log 20). -/
def Obligations.StepKeepsInvariant : Prop :=
  ∀ s t : State, s.Inv → step s = .next t → t.Inv

/-- No step of any agent changes the straps (the spec's decision D26). -/
def Obligations.StrapsNeverChange : Prop :=
  ∀ s t : State, step s = .next t → t.cfg = s.cfg

/-- RUN: halted at construction; the core runs after a `Load` exactly when the host may make that `Load`, and nothing
else starts it; a running core halts exactly when the step reports a BoundsViolation or refuses a `Load`, so no other
error halts it (10_state.md section 8, 60_exceptions.md section 1; the spec's decisions D14, D24; log 16). -/
def Obligations.RunChangesOnlyByLoadAndBoundsViolation : Prop :=
  (∀ c, (State.construct c).run = .halted) ∧
  ∀ s t : State, s.Inv → step s = .next t →
    (∀ font prog, s.moves.head? = some (.load font prog) → (t.run = .running ↔ loadAllowed s.cfg font prog)) ∧
    (s.run = .halted → t.run = .running → ∃ font prog, s.moves.head? = some (.load font prog)) ∧
    (s.run = .running → (t.run = .halted ↔
      (∃ a, t.result = some (.error (.boundsViolation a))) ∨ ∃ why, t.result = some (.loadRefused why)))

/-- A timer moves by nothing but `TimerSet` of FX15 or FX18, `Tick`, which takes 1 from a value above 0, and a
`Load`, which resets it where the host may make it (60_exceptions.md section 7); nothing is said of the timers after
a refused `Load` (log 16). -/
def Obligations.TimersMoveOnlyBySetTickAndReset : Prop :=
  ∀ s t : State, step s = .next t →
    (t.dt = s.dt ∨ (∃ x, s.executesNext (.setDt x) ∧ t.dt = s.getV x) ∨
      (s.moves.head? = some (.tick .delay) ∧ 0 < s.dt.toNat ∧ t.dt.toNat = s.dt.toNat - 1) ∨
      (∃ font prog, s.moves.head? = some (.load font prog) ∧ (loadAllowed s.cfg font prog → t.dt = 0#8))) ∧
    (t.st = s.st ∨ (∃ x, s.executesNext (.setSt x) ∧ t.st = s.getV x) ∨
      (s.moves.head? = some (.tick .sound) ∧ 0 < s.st.toNat ∧ t.st.toNat = s.st.toNat - 1) ∨
      (∃ font prog, s.moves.head? = some (.load font prog) ∧ (loadAllowed s.cfg font prog → t.st = 0#8)))

/-- A `Tick` of either timer, also while the core is halted or blocked, takes 1 from a value above 0 and leaves 0
at 0 (the spec's decisions D16, D25; log 6); it touches nothing else. -/
def Obligations.TickDecrementsItsTimer : Prop :=
  ∀ (s : State) (rest : List Move), s.tornDown = false →
    (s.moves = .tick .delay :: rest → ∃ t, step s = .next t ∧ t.dt.toNat = s.dt.toNat - 1 ∧
      t.moves = rest ∧ ChangesOnly [.dt, .moves] s t) ∧
    (s.moves = .tick .sound :: rest → ∃ t, step s = .next t ∧ t.st.toNat = s.st.toNat - 1 ∧
      t.moves = rest ∧ ChangesOnly [.st, .moves] s t)

/-- The access summary of 10_state.md section 13 as a frame for all 35 instructions: whatever an instruction
does, every part of the state outside its row is as it was. Beside its row it may write the model's own fields for
the host's side: the reply, and for FX0A, 00E0 and DXYN the wait and the schedule (log 8, log 10, log 13). -/
def Obligations.InstructionsWriteOnlyTheirRow : Prop :=
  ∀ (i : Instr) (s t : State), exec i s = .next t → ChangesOnly (s.mayWrite i) s t

/-- Every instruction answers a next state in every state, since an error is a next state of the model (log 10). It
ends in one of these ways, RUN as it was but for the last: `ok`; StackOverflow of 2NNN; StackUnderflow of 00EE;
Cancelled of FX0A; the executor blocked and the reply as it was, in FX0A, which waits for its key (log 8), or in the
`Render` of 00E0 or DXYN (log 13); BoundsViolation of FX33, FX55, FX65, DXYN and, by the spec's decision D12, EX9E
and EXA1, and the core is halted (60_exceptions.md section 1). -/
def Obligations.ErrorsComeFromTheirInstructions : Prop :=
  ∀ (i : Instr) (s : State), ∃ t, exec i s = .next t ∧
    ((t.result = some .ok ∧ t.run = s.run) ∨
      (t.result = some (.error .stackOverflow) ∧ (∃ nnn, i = .call nnn) ∧ t.run = s.run) ∨
      (t.result = some (.error .stackUnderflow) ∧ i = .ret ∧ t.run = s.run) ∨
      (t.result = some (.error .cancelled) ∧ (∃ x, i = .waitKey x) ∧ t.run = s.run) ∨
      (t.result = s.result ∧ (∃ x, i = .waitKey x ∧ t.wait = some (.key x)) ∧ t.run = s.run) ∨
      (t.result = s.result ∧ (i = .cls ∨ ∃ x y n, i = .drw x y n) ∧ t.wait = some .render ∧ t.run = s.run) ∨
      ((∃ a, 15 < a ∧ t.result = some (.error (.boundsViolation a))) ∧ t.run = .halted ∧
        ((∃ x, i = .bcd x) ∨ (∃ x, i = .storeRegs x) ∨ (∃ x, i = .loadRegs x) ∨
          (∃ x y n, i = .drw x y n) ∨ (∃ x, i = .skp x) ∨ (∃ x, i = .sknp x))))

/-! ### Control flow (41_flow.md) -/

/-- 0NNN is a no-op: nothing changes but the cycle's result (R75). -/
def Obligations.SysDoesNothing : Prop :=
  (∀ nnn : Addr12, nnn ≠ 0x0E0#12 → nnn ≠ 0x0EE#12 →
    decodeWord (BitVec.ofNat 16 (0x0000 + nnn.toNat)) = .ok (.sys nnn)) ∧
  ∀ (nnn : Addr12) (s : State), ∃ t, exec (.sys nnn) s = .next t ∧ t.result = some .ok ∧
    ChangesOnly [.result] s t

/-- 1NNN: PC takes the 12-bit target, odd ones included; no link is saved (R77). -/
def Obligations.JumpLoadsPc : Prop :=
  (∀ nnn : Addr12, decodeWord (BitVec.ofNat 16 (0x1000 + nnn.toNat)) = .ok (.jp nnn)) ∧
  ∀ (nnn : Addr12) (s : State), ∃ t, exec (.jp nnn) s = .next t ∧ t.result = some .ok ∧
    t.pc.toNat = nnn.toNat ∧ ChangesOnly [.result, .pc] s t

/-- 2NNN with fewer than 16 entries pushes the address of the following instruction and jumps; with 16 it
reports StackOverflow and changes nothing else, so PC stays A + 2 (the spec's decision D3). -/
def Obligations.CallPushesReturnAddress : Prop :=
  (∀ nnn : Addr12, decodeWord (BitVec.ofNat 16 (0x2000 + nnn.toNat)) = .ok (.call nnn)) ∧
  ∀ (nnn : Addr12) (s : State),
    (s.stack.length < 16 → ∃ t, exec (.call nnn) s = .next t ∧ t.result = some .ok ∧
      t.pc.toNat = nnn.toNat ∧ t.stack = s.pc :: s.stack ∧ ChangesOnly [.result, .pc, .stack] s t) ∧
    (16 ≤ s.stack.length → ∃ t, exec (.call nnn) s = .next t ∧
      t.result = some (.error .stackOverflow) ∧ ChangesOnly [.result] s t)

/-- 00EE pops the newest entry into PC as it is; on the empty stack it reports StackUnderflow and changes
nothing else, so PC stays A + 2 (the spec's decision D3). -/
def Obligations.ReturnPopsPc : Prop :=
  decodeWord 0x00EE#16 = .ok .ret ∧
  ∀ s : State,
    (∀ w rest, s.stack = w :: rest → ∃ t, exec .ret s = .next t ∧ t.result = some .ok ∧ t.pc = w ∧
      t.stack = rest ∧ ChangesOnly [.result, .pc, .stack] s t) ∧
    (s.stack = [] → ∃ t, exec .ret s = .next t ∧ t.result = some (.error .stackUnderflow) ∧
      ChangesOnly [.result] s t)

/-- A return that finds the stack as a call left it goes to the instruction after the call and leaves the
stack as it was before the call (95_test_vectors.md S6). -/
def Obligations.CallThenReturnLandsAfterCall : Prop :=
  ∀ (nnn : Addr12) (s : State), s.stack.length < 16 →
    ∃ t, exec (.call nnn) s = .next t ∧ t.result = some .ok ∧
      ∀ m : State, m.stack = t.stack →
        ∃ u, exec .ret m = .next u ∧ u.result = some .ok ∧ u.pc = s.pc ∧ u.stack = s.stack ∧
          ChangesOnly [.result, .pc, .stack] m u

/-- 3XNN and 4XNN: PC moves on by 2, modulo 65536, when V[x] equals, or differs from, nn (R79, R80). -/
def Obligations.SkipOnImmediate : Prop :=
  (∀ (x : RegIdx) (nn : Byte), decodeWord (BitVec.ofNat 16 (0x3000 + 256 * x.val + nn.toNat)) = .ok (.seImm x nn) ∧
    decodeWord (BitVec.ofNat 16 (0x4000 + 256 * x.val + nn.toNat)) = .ok (.sneImm x nn)) ∧
  ∀ (x : RegIdx) (nn : Byte) (s : State),
    (∃ t, exec (.seImm x nn) s = .next t ∧ t.result = some .ok ∧
      t.pc.toNat = (if s.getV x = nn then (s.pc.toNat + 2) % 65536 else s.pc.toNat) ∧
      ChangesOnly [.result, .pc] s t) ∧
    (∃ t, exec (.sneImm x nn) s = .next t ∧ t.result = some .ok ∧
      t.pc.toNat = (if s.getV x = nn then s.pc.toNat else (s.pc.toNat + 2) % 65536) ∧
      ChangesOnly [.result, .pc] s t)

/-- 5XY0 and 9XY0: PC moves on by 2, modulo 65536, when V[x] equals, or differs from, V[y]; another low nibble
makes the word unsupported (R81, R82). -/
def Obligations.SkipOnRegisters : Prop :=
  (∀ (x y : RegIdx), decodeWord (BitVec.ofNat 16 (0x5000 + 256 * x.val + 16 * y.val)) = .ok (.seReg x y) ∧
    decodeWord (BitVec.ofNat 16 (0x9000 + 256 * x.val + 16 * y.val)) = .ok (.sneReg x y)) ∧
  (∀ (x y : RegIdx) (n : Nibble), n ≠ 0#4 → ∀ w : Word,
    (w.toNat = 0x5000 + 256 * x.val + 16 * y.val + n.toNat ∨ w.toNat = 0x9000 + 256 * x.val + 16 * y.val + n.toNat) →
      decodeWord w = .error (.unsupported w)) ∧
  ∀ (x y : RegIdx) (s : State),
    (∃ t, exec (.seReg x y) s = .next t ∧ t.result = some .ok ∧
      t.pc.toNat = (if s.getV x = s.getV y then (s.pc.toNat + 2) % 65536 else s.pc.toNat) ∧
      ChangesOnly [.result, .pc] s t) ∧
    (∃ t, exec (.sneReg x y) s = .next t ∧ t.result = some .ok ∧
      t.pc.toNat = (if s.getV x = s.getV y then s.pc.toNat else (s.pc.toNat + 2) % 65536) ∧
      ChangesOnly [.result, .pc] s t)

/-- BNNN: PC takes nnn plus V0, or plus the register the top nibble of nnn names under the strap, not reduced
modulo 4096 (the spec's decision D11 says which nibble). -/
def Obligations.JumpWithOffset : Prop :=
  (∀ nnn : Addr12, decodeWord (BitVec.ofNat 16 (0xB000 + nnn.toNat)) = .ok (.jpOff nnn)) ∧
  ∀ (nnn : Addr12) (s : State),
    (s.cfg.jumpOffsetUsesVx = false → ∃ t, exec (.jpOff nnn) s = .next t ∧ t.result = some .ok ∧
      t.pc.toNat = nnn.toNat + (s.getV 0).toNat ∧ ChangesOnly [.result, .pc] s t) ∧
    (s.cfg.jumpOffsetUsesVx = true → ∀ x : RegIdx, x.val = nnn.toNat / 256 →
      ∃ t, exec (.jpOff nnn) s = .next t ∧ t.result = some .ok ∧
        t.pc.toNat = nnn.toNat + (s.getV x).toNat ∧ ChangesOnly [.result, .pc] s t)

/-! ### Register and arithmetic (42_alu.md) -/

/-- 6XNN and 8XY0: V[x] takes nn, or V[y]; VF is an ordinary register (R86, R88). -/
def Obligations.LoadAndCopyRegister : Prop :=
  (∀ (x : RegIdx) (nn : Byte),
    decodeWord (BitVec.ofNat 16 (0x6000 + 256 * x.val + nn.toNat)) = .ok (.ldImm x nn)) ∧
  (∀ (x y : RegIdx), decodeWord (BitVec.ofNat 16 (0x8000 + 256 * x.val + 16 * y.val)) = .ok (.ldReg x y)) ∧
  (∀ (x : RegIdx) (nn : Byte) (s : State), ∃ t, exec (.ldImm x nn) s = .next t ∧ t.result = some .ok ∧
    t.getV x = nn ∧ ChangesOnly [.result, .v x] s t) ∧
  (∀ (x y : RegIdx) (s : State), ∃ t, exec (.ldReg x y) s = .next t ∧ t.result = some .ok ∧
    t.getV x = s.getV y ∧ ChangesOnly [.result, .v x] s t)

/-- 7XNN: V[x] takes the sum modulo 256, and VF is not written unless it is V[x] (R87). -/
def Obligations.AddImmediateWraps : Prop :=
  (∀ (x : RegIdx) (nn : Byte), decodeWord (BitVec.ofNat 16 (0x7000 + 256 * x.val + nn.toNat)) = .ok (.addImm x nn)) ∧
  ∀ (x : RegIdx) (nn : Byte) (s : State), ∃ t, exec (.addImm x nn) s = .next t ∧ t.result = some .ok ∧
    (t.getV x).toNat = ((s.getV x).toNat + nn.toNat) % 256 ∧ ChangesOnly [.result, .v x] s t

/-- 8XY1, 8XY2, 8XY3: bitwise OR, AND, XOR of V[x] and V[y] into V[x], and VF is left as it was unless it is
V[x] (R89, R90, R91). -/
def Obligations.LogicIsBitwise : Prop :=
  (∀ (x y : RegIdx),
    decodeWord (BitVec.ofNat 16 (0x8001 + 256 * x.val + 16 * y.val)) = .ok (.orReg x y) ∧
    decodeWord (BitVec.ofNat 16 (0x8002 + 256 * x.val + 16 * y.val)) = .ok (.andReg x y) ∧
    decodeWord (BitVec.ofNat 16 (0x8003 + 256 * x.val + 16 * y.val)) = .ok (.xorReg x y)) ∧
  ∀ (x y : RegIdx) (s : State),
    (∃ t, exec (.orReg x y) s = .next t ∧ t.result = some .ok ∧ ChangesOnly [.result, .v x] s t ∧
      ∀ k, (t.getV x).getLsbD k = ((s.getV x).getLsbD k || (s.getV y).getLsbD k)) ∧
    (∃ t, exec (.andReg x y) s = .next t ∧ t.result = some .ok ∧ ChangesOnly [.result, .v x] s t ∧
      ∀ k, (t.getV x).getLsbD k = ((s.getV x).getLsbD k && (s.getV y).getLsbD k)) ∧
    (∃ t, exec (.xorReg x y) s = .next t ∧ t.result = some .ok ∧ ChangesOnly [.result, .v x] s t ∧
      ∀ k, (t.getV x).getLsbD k = xor ((s.getV x).getLsbD k) ((s.getV y).getLsbD k))

/-- 8XY4: V[x] takes the sum modulo 256 and then VF the carry, so with x = 15 the carry stands; the operands
are read first (the spec's decision D7 for x or y = 15). -/
def Obligations.AddRegistersSetsCarry : Prop :=
  (∀ (x y : RegIdx), decodeWord (BitVec.ofNat 16 (0x8004 + 256 * x.val + 16 * y.val)) = .ok (.addReg x y)) ∧
  ∀ (x y : RegIdx) (s : State), ∃ t, exec (.addReg x y) s = .next t ∧ t.result = some .ok ∧
    (x ≠ regF → (t.getV x).toNat = ((s.getV x).toNat + (s.getV y).toNat) % 256) ∧
    (t.getV regF).toNat = (if 255 < (s.getV x).toNat + (s.getV y).toNat then 1 else 0) ∧
    ChangesOnly [.result, .v x, .v regF] s t

/-- 8XY5 and 8XY7: VF takes the no-borrow flag and then V[x] the difference modulo 256, so with x = 15 the
difference stands; the operands are read first (the spec's decision D7 for x or y = 15). -/
def Obligations.SubtractSetsNoBorrow : Prop :=
  (∀ (x y : RegIdx),
    decodeWord (BitVec.ofNat 16 (0x8005 + 256 * x.val + 16 * y.val)) = .ok (.sub x y) ∧
    decodeWord (BitVec.ofNat 16 (0x8007 + 256 * x.val + 16 * y.val)) = .ok (.subn x y)) ∧
  ∀ (x y : RegIdx) (s : State),
    (∃ t, exec (.sub x y) s = .next t ∧ t.result = some .ok ∧
      ((t.getV x).toNat : Int) = (((s.getV x).toNat : Int) - (s.getV y).toNat) % 256 ∧
      (x ≠ regF → (t.getV regF).toNat = if (s.getV y).toNat ≤ (s.getV x).toNat then 1 else 0) ∧
      ChangesOnly [.result, .v x, .v regF] s t) ∧
    (∃ t, exec (.subn x y) s = .next t ∧ t.result = some .ok ∧
      ((t.getV x).toNat : Int) = (((s.getV y).toNat : Int) - (s.getV x).toNat) % 256 ∧
      (x ≠ regF → (t.getV regF).toNat = if (s.getV x).toNat ≤ (s.getV y).toNat then 1 else 0) ∧
      ChangesOnly [.result, .v x, .v regF] s t)

/-- 8XY6 and 8XYE: with `src` V[y] under the strap and V[x] otherwise, VF takes the bit shifted out and then
V[x] the shifted value, so with x = 15 the shifted value stands (the spec's decision D7 for x or y = 15). -/
def Obligations.ShiftsMoveOneBit : Prop :=
  (∀ (x y : RegIdx),
    decodeWord (BitVec.ofNat 16 (0x8006 + 256 * x.val + 16 * y.val)) = .ok (.shr x y) ∧
    decodeWord (BitVec.ofNat 16 (0x800E + 256 * x.val + 16 * y.val)) = .ok (.shl x y)) ∧
  ∀ (x y : RegIdx) (s : State) (src : Nat),
    src = (if s.cfg.shiftCopiesVy = true then (s.getV y).toNat else (s.getV x).toNat) →
    (∃ t, exec (.shr x y) s = .next t ∧ t.result = some .ok ∧ (t.getV x).toNat = src / 2 ∧
      (x ≠ regF → (t.getV regF).toNat = src % 2) ∧ ChangesOnly [.result, .v x, .v regF] s t) ∧
    (∃ t, exec (.shl x y) s = .next t ∧ t.result = some .ok ∧ (t.getV x).toNat = 2 * src % 256 ∧
      (x ≠ regF → (t.getV regF).toNat = src / 128) ∧ ChangesOnly [.result, .v x, .v regF] s t)

/-- CXNN: V[x] takes the next byte of the random port, a free value, under the mask, and the next draw is
another one (the spec's decision D17; log 9). It holds whatever the free value is. -/
def Obligations.RandomByteUnderMask : Prop :=
  (∀ (x : RegIdx) (nn : Byte), decodeWord (BitVec.ofNat 16 (0xC000 + 256 * x.val + nn.toNat)) = .ok (.rnd x nn)) ∧
  ∀ (x : RegIdx) (nn : Byte) (s : State), ∃ t, exec (.rnd x nn) s = .next t ∧ t.result = some .ok ∧
    t.getV x = Config.randomByte s.draws &&& nn ∧ t.draws = s.draws + 1 ∧
    ChangesOnly [.result, .v x, .draws] s t

/-! ### Index register and memory (43_index_memory.md) -/

/-- ANNN: I takes nnn (R100). -/
def Obligations.LoadIndexRegister : Prop :=
  (∀ nnn : Addr12, decodeWord (BitVec.ofNat 16 (0xA000 + nnn.toNat)) = .ok (.ldI nnn)) ∧
  ∀ (nnn : Addr12) (s : State), ∃ t, exec (.ldI nnn) s = .next t ∧ t.result = some .ok ∧
    t.index.toNat = nnn.toNat ∧ ChangesOnly [.result, .index] s t

/-- FX1E: I takes the sum modulo 65536; VF only under the strap, 1 when the exact sum exceeds 0xFFF and else 0
(the spec's decision D9). -/
def Obligations.AddToIndexRegister : Prop :=
  (∀ x : RegIdx, decodeWord (BitVec.ofNat 16 (0xF01E + 256 * x.val)) = .ok (.addI x)) ∧
  ∀ (x : RegIdx) (s : State), ∃ t, exec (.addI x) s = .next t ∧ t.result = some .ok ∧
    t.index.toNat = (s.index.toNat + (s.getV x).toNat) % 65536 ∧
    (s.cfg.addISetsVf = false → ChangesOnly [.result, .index] s t) ∧
    (s.cfg.addISetsVf = true → ChangesOnly [.result, .index, .v regF] s t ∧
      (t.getV regF).toNat = if 0xFFF < s.index.toNat + (s.getV x).toNat then 1 else 0)

/-- FX29: I takes FB + 5·V[x] with the whole of V[x], and memory is not read (R102). -/
def Obligations.PointIndexAtGlyph : Prop :=
  (∀ x : RegIdx, decodeWord (BitVec.ofNat 16 (0xF029 + 256 * x.val)) = .ok (.ldF x)) ∧
  ∀ (x : RegIdx) (s : State), s.cfg.fontBaseAddress ≤ 4016 →
    ∃ t, exec (.ldF x) s = .next t ∧ t.result = some .ok ∧
      t.index.toNat = s.cfg.fontBaseAddress + (s.getV x).toNat * 5 ∧ ChangesOnly [.result, .index] s t

/-- FX33 with all three bytes in memory: hundreds, tens and ones of V[x] at I, I + 1, I + 2; I stays under every
setting, and every other byte is as it was (43_index_memory.md, FX33). -/
def Obligations.StoreDecimalDigits : Prop :=
  (∀ x : RegIdx, decodeWord (BitVec.ofNat 16 (0xF033 + 256 * x.val)) = .ok (.bcd x)) ∧
  ∀ (x : RegIdx) (s : State), s.base ≤ 4093 →
    ∃ t, exec (.bcd x) s = .next t ∧ t.result = some .ok ∧
      (Memory.get t.mem s.base).toNat = (s.getV x).toNat / 100 ∧
      (Memory.get t.mem (s.base + 1)).toNat = (s.getV x).toNat / 10 % 10 ∧
      (Memory.get t.mem (s.base + 2)).toNat = (s.getV x).toNat % 10 ∧
      ChangesOnly [.result, .mem s.base, .mem (s.base + 1), .mem (s.base + 2)] s t

/-- FX55 with all its bytes in memory: V[k] at I + k for k from 0 to x, I advanced by x + 1 under the strap (the
spec's decision D10), every other byte as it was. -/
def Obligations.StoreRegisters : Prop :=
  (∀ x : RegIdx, decodeWord (BitVec.ofNat 16 (0xF055 + 256 * x.val)) = .ok (.storeRegs x)) ∧
  ∀ (x : RegIdx) (s : State), s.base + x.val ≤ 4095 →
    ∃ t, exec (.storeRegs x) s = .next t ∧ t.result = some .ok ∧
      (∀ k : RegIdx, k ≤ x → Memory.get t.mem (s.base + k.val) = s.getV k) ∧
      (s.cfg.bcdAndLoadIncrementI = true → t.index.toNat = (s.index.toNat + x.val + 1) % 65536) ∧
      (s.cfg.bcdAndLoadIncrementI = false → t.index = s.index) ∧
      ChangesOnly (.result :: .index :: s.bytesFromIndex (x.val + 1)) s t

/-- FX65 with all its bytes in memory: V[k] takes the byte at I + k for k from 0 to x, registers above x and all of
memory as they were, I advanced by x + 1 under the strap (the spec's decision D10). -/
def Obligations.LoadRegisters : Prop :=
  (∀ x : RegIdx, decodeWord (BitVec.ofNat 16 (0xF065 + 256 * x.val)) = .ok (.loadRegs x)) ∧
  ∀ (x : RegIdx) (s : State), s.base + x.val ≤ 4095 →
    ∃ t, exec (.loadRegs x) s = .next t ∧ t.result = some .ok ∧
      (∀ k : RegIdx, k ≤ x → t.getV k = Memory.get s.mem (s.base + k.val)) ∧
      (s.cfg.bcdAndLoadIncrementI = true → t.index.toNat = (s.index.toNat + x.val + 1) % 65536) ∧
      (s.cfg.bcdAndLoadIncrementI = false → t.index = s.index) ∧
      ChangesOnly (.result :: .index :: regsUpTo x) s t

/-- FX55 and then, from the same I and with those bytes unchanged, FX65: V[0] to V[x] hold what they held
(43_index_memory.md, Round trip). -/
def Obligations.StoreThenLoadRoundTrip : Prop :=
  ∀ (x : RegIdx) (s u : State), s.base + x.val ≤ 4095 →
    ∃ t, exec (.storeRegs x) s = .next t ∧ t.result = some .ok ∧
      (u.index = s.index →
        (∀ k : RegIdx, k ≤ x → Memory.get u.mem (s.base + k.val) = Memory.get t.mem (s.base + k.val)) →
        ∃ w, exec (.loadRegs x) u = .next w ∧ w.result = some .ok ∧
          ∀ k : RegIdx, k ≤ x → w.getV k = s.getV k)

/-- FX55 into the instruction stream: when it stores at least two bytes from the address the next fetch reads,
that fetch gives the word of V0 and V1 just stored, with no step between (the spec's decision D28). -/
def Obligations.StoredWordIsFetchedNext : Prop :=
  ∀ (x : RegIdx) (s : State) (w : Word), 1 ≤ x.val → s.base + x.val ≤ 4095 → s.pc = s.index → s.cyclesNext →
    s.run = .running → w.toNat = (s.getV 0).toNat * 256 + (s.getV 1).toNat →
    ∃ t, exec (.storeRegs x) s = .next t ∧ t.fetchesNext w

/-- FX33 and FX55 that run past address 4095: BoundsViolation of the first bad address, the core halts, the
bytes before it stand, I and every other byte are as they were (the spec's decisions D3, D5, D6). -/
def Obligations.StorePastMemoryKeepsPrefix : Prop :=
  (∀ (x : RegIdx) (s : State), 4093 < s.base →
    ∃ t, exec (.bcd x) s = .next t ∧ t.run = .halted ∧
      t.result = some (.error (.boundsViolation (max s.base 4096))) ∧
      (s.base ≤ 4095 → (Memory.get t.mem s.base).toNat = (s.getV x).toNat / 100) ∧
      (s.base + 1 ≤ 4095 → (Memory.get t.mem (s.base + 1)).toNat = (s.getV x).toNat / 10 % 10) ∧
      ChangesOnly (.result :: .run :: s.bytesFromIndex (4096 - s.base)) s t) ∧
  (∀ (x : RegIdx) (s : State), 4095 < s.base + x.val →
    ∃ t, exec (.storeRegs x) s = .next t ∧ t.run = .halted ∧
      t.result = some (.error (.boundsViolation (max s.base 4096))) ∧
      (∀ k : RegIdx, s.base + k.val ≤ 4095 → Memory.get t.mem (s.base + k.val) = s.getV k) ∧
      ChangesOnly (.result :: .run :: s.bytesFromIndex (4096 - s.base)) s t)

/-- FX65 that runs past address 4095: BoundsViolation of the first bad address, the core halts, the registers
loaded before it keep their new values, the others and I are as they were (the spec's decisions D3, D5, D6). -/
def Obligations.LoadPastMemoryKeepsPrefix : Prop :=
  ∀ (x : RegIdx) (s : State), 4095 < s.base + x.val →
    ∃ t, exec (.loadRegs x) s = .next t ∧ t.run = .halted ∧
      t.result = some (.error (.boundsViolation (max s.base 4096))) ∧
      (∀ k : RegIdx, t.getV k = if s.base + k.val ≤ 4095 then Memory.get s.mem (s.base + k.val) else s.getV k) ∧
      ChangesOnly (.result :: .run :: regsUpTo x) s t

/-! ### Display (44_display.md) -/

/-- 00E0: every cell is off, VF is not touched, and the display port gets a snapshot of the blank grid, also
when it was blank before (44_display.md, 00E0); the cycle returns when the collaborator does (44_display.md,
`Render`; log 13). -/
def Obligations.ClearDisplayRendersBlank : Prop :=
  decodeWord 0x00E0#16 = .ok .cls ∧
  ∀ s : State, ∃ t, exec .cls s = .next t ∧ (∀ col row, t.cell col row = false) ∧ EndsInRender [.disp] s t

/-- DXYN whose sprite bytes lie in memory meets no error: a grid cell changes exactly when the sprite's 1 bits hit it
an odd number of times, at the edge as the strap says, memory and I are as they were, the display port gets the
new picture, and the cycle returns when the collaborator does (44_display.md, DXYN and `Render`; the spec's decisions
D8 and D22 for VF as a coordinate and for clipped rows; log 13). -/
def Obligations.DrawXorsSpriteIntoDisplay : Prop :=
  (∀ (x y : RegIdx) (n : Nibble),
    decodeWord (BitVec.ofNat 16 (0xD000 + 256 * x.val + 16 * y.val + n.toNat)) = .ok (.drw x y n)) ∧
  ∀ (x y : RegIdx) (n : Nibble) (s : State), s.cfg.legal →
    (s.rowsRead y n = 0 ∨ s.base + s.rowsRead y n ≤ 4096) →
    ∃ t, exec (.drw x y n) s = .next t ∧
      (∀ col row, t.cell col row =
        xor (s.cell col row) (decide ((s.drawHits x y n).count (cellNumber s.cfg col row) % 2 = 1))) ∧
      EndsInRender [.v regF, .disp] s t

/-- DXYN leaves VF = 1 when some hit of a 1 bit found its cell on, counting the hits before it, and VF = 0
otherwise, whatever VF held (44_display.md, Collision; the spec's decisions D8 and D22 for VF as a coordinate and for
clipped rows; log 13 for the end in `Render`). -/
def Obligations.DrawFlagIsCollision : Prop :=
  ∀ (x y : RegIdx) (n : Nibble) (s : State), s.cfg.legal →
    (s.rowsRead y n = 0 ∨ s.base + s.rowsRead y n ≤ 4096) →
    ∃ t, exec (.drw x y n) s = .next t ∧ EndsInRender [.v regF, .disp] s t ∧
      ((∃ before k after, s.drawHits x y n = before ++ k :: after ∧
          xor (s.disp.contains k) (decide (before.count k % 2 = 1)) = true) → t.getV regF = 1#8) ∧
      ((¬ ∃ before k after, s.drawHits x y n = before ++ k :: after ∧
          xor (s.disp.contains k) (decide (before.count k % 2 = 1)) = true) → t.getV regF = 0#8)

/-- The same sprite drawn at the same place a second time, with no other write to the display between, gives
back the picture from before the first draw (44_display.md, self-inverse property; the spec's decisions D8 and D22
for VF as a coordinate and for clipped rows; log 13 for the end in `Render`). -/
def Obligations.DrawTwiceRestoresDisplay : Prop :=
  ∀ (x y : RegIdx) (n : Nibble) (s m : State), s.cfg.legal →
    (s.rowsRead y n = 0 ∨ s.base + s.rowsRead y n ≤ 4096) →
    ∃ t, exec (.drw x y n) s = .next t ∧ EndsInRender [.v regF, .disp] s t ∧
      (m.cfg = s.cfg → m.disp = t.disp → m.getV x = s.getV x → m.getV y = s.getV y → m.index = s.index →
        (∀ r, r < n.toNat → Memory.get m.mem (s.base + r) = Memory.get s.mem (s.base + r)) →
        ∃ u, exec (.drw x y n) m = .next u ∧ EndsInRender [.v regF, .disp] m u ∧
          ∀ col row, u.cell col row = s.cell col row)

/-- A draw hits no cell twice, under `clip` always and under `wrap` on a grid at least 8 wide and n high
(44_display.md, DXYN corner case 6 and the self-inverse property). -/
def Obligations.DrawHitsNoCellTwice : Prop :=
  ∀ (x y : RegIdx) (n : Nibble) (s : State), s.cfg.legal →
    (s.cfg.edgePolicy = .clip ∨ (8 ≤ s.cfg.displayWidth ∧ n.toNat ≤ s.cfg.displayHeight)) →
    (s.drawHits x y n).Nodup

/-- When no cell is hit twice, the second of two equal draws leaves VF = 1 exactly when the first one turned a
cell on (44_display.md, self-inverse property; the spec's decisions D8 and D22 for VF as a coordinate and for clipped
rows; log 13 for the end in `Render`). -/
def Obligations.SecondDrawFlagsTheFirst : Prop :=
  ∀ (x y : RegIdx) (n : Nibble) (s m : State), s.cfg.legal →
    (s.rowsRead y n = 0 ∨ s.base + s.rowsRead y n ≤ 4096) → (s.drawHits x y n).Nodup →
    ∃ t, exec (.drw x y n) s = .next t ∧ EndsInRender [.v regF, .disp] s t ∧
      (m.cfg = s.cfg → m.disp = t.disp → m.getV x = s.getV x → m.getV y = s.getV y → m.index = s.index →
        (∀ r, r < n.toNat → Memory.get m.mem (s.base + r) = Memory.get s.mem (s.base + r)) →
        ∃ u, exec (.drw x y n) m = .next u ∧ EndsInRender [.v regF, .disp] m u ∧
          ((∃ k, s.disp.contains k = false ∧ t.disp.contains k = true) → u.getV regF = 1#8) ∧
          ((∀ k, t.disp.contains k = true → s.disp.contains k = true) → u.getV regF = 0#8))

/-- DXYN whose sprite runs past address 4095 on a row it reads: BoundsViolation of the first bad address, the
core halts, the rows before it stay drawn, VF is 0 or 1, and the display port gets nothing (the spec's decisions
D3, D5, D6, and D8 and D22 for VF as a coordinate and for clipped rows). -/
def Obligations.DrawPastMemoryKeepsRows : Prop :=
  ∀ (x y : RegIdx) (n : Nibble) (s : State), s.cfg.legal → s.rowsRead y n ≠ 0 →
    4096 < s.base + s.rowsRead y n →
    ∃ t, exec (.drw x y n) s = .next t ∧ t.run = .halted ∧
      t.result = some (.error (.boundsViolation (max s.base 4096))) ∧
      (∀ col row, t.cell col row = xor (s.cell col row)
        (decide ((spriteHits s.cfg s.mem s.base (s.startCol x) (s.startRow y) (4096 - s.base)).count
          (cellNumber s.cfg col row) % 2 = 1))) ∧
      (t.getV regF = 0#8 ∨ t.getV regF = 1#8) ∧
      ChangesOnly [.result, .run, .v regF, .disp] s t

/-! ### Keypad and timers (45_keypad_timers.md) -/

/-- EX9E and EXA1 with V[x] at most 15: PC moves on by 2, modulo 65536, when the line of that key is down, or is
not; the query changes nothing. The answer is the level the model's keypad field holds (log 7). -/
def Obligations.SkipOnKey : Prop :=
  (∀ x : RegIdx, decodeWord (BitVec.ofNat 16 (0xE09E + 256 * x.val)) = .ok (.skp x) ∧
    decodeWord (BitVec.ofNat 16 (0xE0A1 + 256 * x.val)) = .ok (.sknp x)) ∧
  ∀ (x : RegIdx) (s : State), (s.getV x).toNat ≤ 15 →
    (∃ t, exec (.skp x) s = .next t ∧ t.result = some .ok ∧
      t.pc.toNat = (if s.keypad.getLsbD (s.getV x).toNat = true then (s.pc.toNat + 2) % 65536 else s.pc.toNat) ∧
      ChangesOnly [.result, .pc] s t) ∧
    (∃ t, exec (.sknp x) s = .next t ∧ t.result = some .ok ∧
      t.pc.toNat = (if s.keypad.getLsbD (s.getV x).toNat = true then s.pc.toNat else (s.pc.toNat + 2) % 65536) ∧
      ChangesOnly [.result, .pc] s t)

/-- EX9E and EXA1 with V[x] above 15: a fatal BoundsViolation of that number, PC stays A + 2 (the spec's decisions
D3, D12). -/
def Obligations.KeyNumberAboveFifteenHalts : Prop :=
  ∀ (x : RegIdx) (s : State), 15 < (s.getV x).toNat →
    (∃ t, exec (.skp x) s = .next t ∧ t.run = .halted ∧
      t.result = some (.error (.boundsViolation (s.getV x).toNat)) ∧ ChangesOnly [.result, .run] s t) ∧
    (∃ t, exec (.sknp x) s = .next t ∧ t.run = .halted ∧
      t.result = some (.error (.boundsViolation (s.getV x).toNat)) ∧ ChangesOnly [.result, .run] s t)

/-- FX0A: where the next move is a key press, V[x] takes the key and the cycle is done; where it is the host's
`Cancel`, the cycle reports Cancelled and writes nothing; otherwise the executor waits with PC at A + 2 and
nothing written (the spec's decision D18; the schedule is the model's, log 8). -/
def Obligations.WaitForKey : Prop :=
  (∀ x : RegIdx, decodeWord (BitVec.ofNat 16 (0xF00A + 256 * x.val)) = .ok (.waitKey x)) ∧
  ∀ (x : RegIdx) (s : State),
    (∀ k rest, s.moves = .press k :: rest → ∃ t, exec (.waitKey x) s = .next t ∧ t.result = some .ok ∧
      (t.getV x).toNat = k.toNat ∧ t.wait = none ∧ t.moves = rest ∧
      ChangesOnly [.result, .v x, .wait, .moves] s t) ∧
    (∀ rest, s.moves = .cancel :: rest → ∃ t, exec (.waitKey x) s = .next t ∧
      t.result = some (.error .cancelled) ∧ t.wait = none ∧ t.moves = rest ∧
      ChangesOnly [.result, .wait, .moves] s t) ∧
    ((∀ k, s.moves.head? ≠ some (.press k)) → s.moves.head? ≠ some .cancel →
      ∃ t, exec (.waitKey x) s = .next t ∧ t.wait = some (.key x) ∧ ChangesOnly [.wait] s t)

/-- A step while the executor is blocked: a tick moves its timer alone and the block goes on; with no move nothing
changes; `Cycle`, `Load` and `Teardown` are refused. A key press completes an FX0A and is dropped in a `Render`;
`Cancel` ends an FX0A with Cancelled and is refused in a `Render`; the collaborator's return completes a `Render`,
and out of turn it is refused (60_exceptions.md, Blocking and the host's operations; log 8, log 13, log 17). -/
def Obligations.BlockedCoreWaitsForTheHost : Prop :=
  ∀ (w : Wait) (s : State), s.tornDown = false → s.wait = some w →
    (s.moves = [] → step s = .next s) ∧
    (∀ T rest, s.moves = .tick T :: rest → ∃ t, step s = .next t ∧ t.wait = some w ∧
      ChangesOnly [if T = .delay then .dt else .st, .moves] s t) ∧
    (∀ m rest, s.moves = m :: rest → (m = .cycle ∨ m = .teardown ∨ ∃ font prog, m = .load font prog) →
      step s = .refused .cycleInProgress) ∧
    (∀ x k rest, w = .key x → s.moves = .press k :: rest → ∃ t, step s = .next t ∧ t.result = some .ok ∧
      (t.getV x).toNat = k.toNat ∧ t.wait = none ∧ t.moves = rest ∧
      ChangesOnly [.result, .v x, .wait, .moves] s t) ∧
    (∀ k rest, w = .render → s.moves = .press k :: rest → ∃ t, step s = .next t ∧ t.moves = rest ∧
      ChangesOnly [.moves] s t) ∧
    (∀ x rest, w = .key x → s.moves = .cancel :: rest → ∃ t, step s = .next t ∧
      t.result = some (.error .cancelled) ∧ t.wait = none ∧ t.moves = rest ∧
      ChangesOnly [.result, .wait, .moves] s t) ∧
    (∀ rest, w = .render → s.moves = .cancel :: rest → step s = .refused .nothingToCancel) ∧
    (∀ rest, w = .render → s.moves = .renderReturn :: rest → ∃ t, step s = .next t ∧ t.result = some .ok ∧
      t.wait = none ∧ t.moves = rest ∧ ChangesOnly [.result, .wait, .moves] s t) ∧
    (∀ m rest, s.moves = m :: rest → (m = .holdRender ∨ (m = .renderReturn ∧ w ≠ .render)) →
      step s = .refused .noRenderCall)

/-- The model's ports outside a wait (log 7, log 13, log 17, log 19): the host's move `keys` sets the 16 lines and
nothing else, at any time; a press nobody waits for changes nothing; `Cancel` without a wait, and a collaborator that
keeps or returns from a `Render` that is not made, are refused. -/
def Obligations.PortMovesOutsideAWait : Prop :=
  ∀ (s : State) (rest : List Move), s.tornDown = false →
    (∀ d, s.moves = .keys d :: rest → ∃ t, step s = .next t ∧ t.keypad = d ∧ t.moves = rest ∧
      ChangesOnly [.keypad, .moves] s t) ∧
    (∀ k, s.wait = none → s.moves = .press k :: rest → ∃ t, step s = .next t ∧ t.moves = rest ∧
      ChangesOnly [.moves] s t) ∧
    (s.wait = none → s.moves = .cancel :: rest → step s = .refused .nothingToCancel) ∧
    (∀ m, s.wait = none → s.moves = m :: rest → (m = .holdRender ∨ m = .renderReturn) →
      step s = .refused .noRenderCall)

/-- FX07: V[x] takes DT, which stays; FX15: DT takes V[x]; FX18: ST takes V[x], and `SoundActive` is then true
exactly when V[x] is above 0 (45_keypad_timers.md, FX07, FX15, FX18). -/
def Obligations.TimersAreReadAndSet : Prop :=
  (∀ x : RegIdx, decodeWord (BitVec.ofNat 16 (0xF007 + 256 * x.val)) = .ok (.getDt x) ∧
    decodeWord (BitVec.ofNat 16 (0xF015 + 256 * x.val)) = .ok (.setDt x) ∧
    decodeWord (BitVec.ofNat 16 (0xF018 + 256 * x.val)) = .ok (.setSt x)) ∧
  ∀ (x : RegIdx) (s : State),
    (∃ t, exec (.getDt x) s = .next t ∧ t.result = some .ok ∧ t.getV x = s.dt ∧
      ChangesOnly [.result, .v x] s t) ∧
    (∃ t, exec (.setDt x) s = .next t ∧ t.result = some .ok ∧ t.dt = s.getV x ∧
      ChangesOnly [.result, .dt] s t) ∧
    (∃ t, exec (.setSt x) s = .next t ∧ t.result = some .ok ∧ t.st = s.getV x ∧
      (t.soundActive = true ↔ 0 < (s.getV x).toNat) ∧ ChangesOnly [.result, .st] s t)

/-! ### The end of a run (60_exceptions.md) -/

/-- `Teardown` ends the core: no agent has a step after it, and nothing else sets it (60_exceptions.md, Teardown). -/
def Obligations.NoStepAfterTeardown : Prop :=
  (∀ s : State, s.tornDown = true → step s = .fault .tornDown) ∧
  (∀ (s : State) (rest : List Move), s.tornDown = false → s.wait = none → s.moves = .teardown :: rest →
    ∃ t, step s = .next t ∧ t.tornDown = true ∧ t.moves = rest ∧ ChangesOnly [.tornDown, .moves] s t) ∧
  (∀ s t : State, step s = .next t → t.tornDown = true → s.moves.head? = some .teardown)
end

