-- ==== Sys2Proof/Laws/Display.lean ====
section
/-! SUPPORT. The display buffer and the blitter: XOR of one cell, that every draw keeps the canonical form,
and the blitter as the list of cells it hits (44_display.md R108 to R110). -/

namespace Sys2Proof.Machine

theorem Display.mem_insert {d : Display} {k j : Nat} : j ∈ Display.insert k d ↔ j = k ∨ j ∈ d := by
  induction d with
  | nil => simp [Display.insert]
  | cons i d ih =>
    by_cases h : k < i
    · simp [Display.insert, h]
    · simp only [Display.insert, h, if_false, List.mem_cons, ih]
      tauto

/-- XOR changes one cell and no other. -/
theorem Display.contains_toggle (d : Display) (k j : Nat) :
    (Display.toggle d k).contains j = xor (d.contains j) (decide (j = k)) := by
  unfold Display.toggle
  by_cases hk : k ∈ d
  · simp only [List.contains_iff_mem, hk, if_true]
    by_cases hj : j = k
    · subst hj; simp [hk]
    · simp [hj]
  · simp only [List.contains_iff_mem, hk, if_false]
    by_cases hj : j = k
    · subst hj; simp [Display.mem_insert, hk]
    · simp [hj, Display.mem_insert]

theorem Display.rising_insert {d : Display} {k : Nat} (h : k ∉ d) (hd : d.Pairwise (· < ·)) :
    (Display.insert k d).Pairwise (· < ·) := by
  induction d with
  | nil => simp [Display.insert]
  | cons i d ih =>
    rw [List.pairwise_cons] at hd
    simp only [List.mem_cons, not_or] at h
    by_cases hlt : k < i
    · simp only [Display.insert, hlt, if_true]
      refine List.pairwise_cons.2 ⟨fun j hj => ?_, List.pairwise_cons.2 hd⟩
      rcases List.mem_cons.1 hj with rfl | hj
      · exact hlt
      · exact lt_trans hlt (hd.1 j hj)
    · simp only [Display.insert, hlt, if_false]
      refine List.pairwise_cons.2 ⟨fun j hj => ?_, ih h.2 hd.2⟩
      rcases Display.mem_insert.1 hj with rfl | hj
      · omega
      · exact hd.1 j hj

/-- XOR of a cell on the grid keeps the canonical form. -/
theorem Display.wf_toggle {c : Straps} {d : Display} (hd : Display.wf c d) {k : Nat}
    (hk : k < c.displayWidth * c.displayHeight) : Display.wf c (Display.toggle d k) := by
  unfold Display.toggle
  by_cases h : d.contains k = true
  · simp only [h, if_true]
    exact ⟨hd.1.filter _, fun j hj => hd.2 j (List.mem_filter.1 hj).1⟩
  · simp only [h, Bool.false_eq_true, if_false]
    refine ⟨Display.rising_insert (by simpa using h) hd.1, fun j hj => ?_⟩
    rcases Display.mem_insert.1 hj with rfl | hj
    · exact hk
    · exact hd.2 j hj

theorem Display.wf_nil (c : Straps) : Display.wf c [] := by simp [Display.wf]

/-- A target coordinate lies on the grid. -/
theorem target_lt {p : EdgePolicy} {size t u : Nat} (h0 : 0 < size) (h : target p size t = some u) : u < size := by
  unfold target at h
  by_cases ht : t < size
  · simp only [ht, if_true, Option.some.injEq] at h; omega
  · cases p with
    | clip => simp [ht] at h
    | wrap =>
      simp only [ht, if_false, Option.some.injEq] at h
      subst h
      exact Nat.mod_lt _ h0

/-- Once drawing stops it stops for every later coordinate. -/
theorem target_none_mono {p : EdgePolicy} {size t u : Nat} (h : target p size t = none) (htu : t ≤ u) :
    target p size u = none := by
  unfold target at h ⊢
  cases p with
  | wrap => split at h <;> simp at h
  | clip =>
    by_cases ht : t < size
    · simp [ht] at h
    · rw [if_neg (by omega)]

/-- A grid cell's number lies below the number of cells. -/
theorem cellNumber_lt {c : Straps} {col row : Nat} (hc : col < c.displayWidth) (hr : row < c.displayHeight) :
    cellNumber c col row < c.displayWidth * c.displayHeight := by
  unfold cellNumber
  have : (row + 1) * c.displayWidth ≤ c.displayHeight * c.displayWidth := Nat.mul_le_mul_right _ hr
  rw [Nat.mul_comm c.displayWidth]
  rw [Nat.succ_mul] at this
  omega

/-- Two grid cells have two numbers. -/
theorem cellNumber_inj {c : Straps} {col row col' row' : Nat} (hc : col < c.displayWidth)
    (hc' : col' < c.displayWidth) (h : cellNumber c col row = cellNumber c col' row') : col = col' ∧ row = row' := by
  unfold cellNumber at h
  have h1 : (row * c.displayWidth + col) % c.displayWidth = col := by
    rw [Nat.mul_comm, Nat.mul_add_mod, Nat.mod_eq_of_lt hc]
  have h2 : (row' * c.displayWidth + col') % c.displayWidth = col' := by
    rw [Nat.mul_comm, Nat.mul_add_mod, Nat.mod_eq_of_lt hc']
  have hcol : col = col' := by rw [← h1, ← h2, h]
  subst hcol
  have hw : 0 < c.displayWidth := by omega
  exact ⟨rfl, Nat.eq_of_mul_eq_mul_right hw (by omega)⟩

/-- The bits of one row draw the hits of that row, most significant bit first. -/
theorem drawBits_eq_hits (c : Straps) (row : Nat) (bits : Byte) (x0 : Nat) (k : Nat) (hk : k ≤ 8) (cv : Canvas) :
    drawBits c row bits x0 k cv =
      ((List.range' (8 - k) k).filterMap fun b =>
        if bits.getLsbD (7 - b) then
          (target c.edgePolicy c.displayWidth (x0 + b)).map (fun col => cellNumber c col row)
        else none).foldl hitCell cv := by
  induction k generalizing cv with
  | zero => simp [drawBits]
  | succ k ih =>
    have e1 : 7 - (8 - (k + 1)) = k := by omega
    have e2 : 8 - (k + 1) = 7 - k := by omega
    have e3 : 7 - k + 1 = 8 - k := by omega
    rw [List.range'_succ, List.filterMap_cons, e1, e2, e3]
    unfold drawBits
    cases ht : target c.edgePolicy c.displayWidth (x0 + (7 - k)) with
    | none =>
      have hnil : (List.range' (8 - k) k).filterMap (fun b =>
          if bits.getLsbD (7 - b) then
            (target c.edgePolicy c.displayWidth (x0 + b)).map (fun col => cellNumber c col row)
          else none) = [] := by
        rw [List.filterMap_eq_nil_iff]
        intro b hb
        have : target c.edgePolicy c.displayWidth (x0 + b) = none :=
          target_none_mono ht (by have := (List.mem_range'_1.1 hb).1; omega)
        simp [this]
      simp [hnil]
    | some col =>
      simp only [Option.map_some]
      rw [ih (by omega)]
      by_cases hb : bits.getLsbD k = true <;> simp [hb]

/-- The rows from `r` on draw the hits of those rows, while their sprite bytes lie in memory. -/
theorem drawRows_eq_hits (c : Straps) (m : Memory) (base x0 y0 k r : Nat) (cv : Canvas)
    (hm : ∀ j, r ≤ j → j < r + k → target c.edgePolicy c.displayHeight (y0 + j) ≠ none → base + j ≤ lastAddr) :
    drawRows c m base x0 y0 k r cv =
      (((List.range' r k).flatMap fun r =>
        match target c.edgePolicy c.displayHeight (y0 + r) with
        | none => []
        | some row =>
          (List.range 8).filterMap fun b =>
            if (Memory.get m (base + r)).getLsbD (7 - b) then
              (target c.edgePolicy c.displayWidth (x0 + b)).map (fun col => cellNumber c col row)
            else none).foldl hitCell cv, none) := by
  induction k generalizing r cv with
  | zero => simp [drawRows]
  | succ k ih =>
    rw [List.range'_succ, List.flatMap_cons]
    unfold drawRows
    cases ht : target c.edgePolicy c.displayHeight (y0 + r) with
    | none =>
      have hnil : (List.range' (r + 1) k).flatMap (fun r =>
          match target c.edgePolicy c.displayHeight (y0 + r) with
          | none => []
          | some row =>
            (List.range 8).filterMap fun b =>
              if (Memory.get m (base + r)).getLsbD (7 - b) then
                (target c.edgePolicy c.displayWidth (x0 + b)).map (fun col => cellNumber c col row)
              else none) = [] := by
        rw [List.flatMap_eq_nil_iff]
        intro j hj
        have : target c.edgePolicy c.displayHeight (y0 + j) = none :=
          target_none_mono ht (by have := (List.mem_range'_1.1 hj).1; omega)
        simp [this]
      simp [hnil]
    | some row =>
      have hb : ¬ lastAddr < base + r := by
        have := hm r (le_refl _) (by omega) (by simp [ht])
        omega
      simp only [hb, if_false]
      rw [ih (r + 1) _ fun j h1 h2 => hm j (by omega) (by omega), drawBits_eq_hits c row _ x0 8 (le_refl _)]
      simp [List.foldl_append, List.range_eq_range']

/-- DXYN's blitter draws exactly the sprite's hits, when every sprite byte it reads lies in memory. -/
theorem drawRows_eq_spriteHits (c : Straps) (m : Memory) (base x0 y0 n : Nat) (cv : Canvas)
    (hm : ∀ r < n, target c.edgePolicy c.displayHeight (y0 + r) ≠ none → base + r ≤ lastAddr) :
    drawRows c m base x0 y0 n 0 cv = ((spriteHits c m base x0 y0 n).foldl hitCell cv, none) := by
  rw [drawRows_eq_hits c m base x0 y0 n 0 cv fun j _ h => hm j (by omega), ← List.range_eq_range']
  rfl

/-- Drawing keeps the canonical form of the display, whether or not the sprite runs off memory. -/
theorem drawBits_wf {c : Straps} (hc : c.legal) {row : Nat} (hr : row < c.displayHeight) (bits : Byte) (x0 k : Nat)
    {cv : Canvas} (h : Display.wf c cv.1) : Display.wf c (drawBits c row bits x0 k cv).1 := by
  induction k generalizing cv with
  | zero => exact h
  | succ k ih =>
    unfold drawBits
    cases ht : target c.edgePolicy c.displayWidth (x0 + (7 - k)) with
    | none => exact h
    | some col =>
      refine ih ?_
      split
      · exact Display.wf_toggle h (cellNumber_lt (target_lt hc.2.1 ht) hr)
      · exact h

theorem drawRows_wf {c : Straps} (hc : c.legal) (m : Memory) (base x0 y0 k r : Nat)
    {cv : Canvas} (h : Display.wf c cv.1) : Display.wf c (drawRows c m base x0 y0 k r cv).1.1 := by
  induction k generalizing r cv with
  | zero => exact h
  | succ k ih =>
    unfold drawRows
    cases ht : target c.edgePolicy c.displayHeight (y0 + r) with
    | none => exact h
    | some row =>
      dsimp only
      split
      · exact h
      · exact ih (r + 1) (drawBits_wf hc (target_lt hc.2.2.1 ht) _ x0 8 h)

end Sys2Proof.Machine
end

