-- ==== Sys2Proof/Laws/Memory.lean ====
section
/-! SUPPORT. Memory: what a read gives after a write, that every write keeps the canonical form, and what
storing and loading a sequence do (20_memory.md R32 to R37). -/

namespace Sys2Proof.Machine

@[simp] theorem Memory.get_nil (a : Nat) : Memory.get [] a = 0#8 := rfl

theorem Memory.get_cons (c : Host.Cell) (m : Memory) (a : Nat) :
    Memory.get (c :: m) a = if c.1 = a then c.2 else Memory.get m a := rfl

/-- An address that no cell lists reads 0. -/
theorem Memory.get_of_not_listed {m : Memory} {a : Nat} (h : ∀ c ∈ m, c.1 ≠ a) : Memory.get m a = 0#8 := by
  induction m with
  | nil => rfl
  | cons c m ih =>
    have hc : c.1 ≠ a := h c (by simp)
    simpa [Memory.get_cons, hc] using ih fun d hd => h d (by simp [hd])

theorem Memory.get_insert {m : Memory} {a : Nat} (b : Byte) (h : ∀ c ∈ m, c.1 ≠ a) (x : Nat) :
    Memory.get (Memory.insert a b m) x = if x = a then b else Memory.get m x := by
  induction m with
  | nil => simp [Memory.insert, Memory.get_cons, eq_comm]
  | cons c m ih =>
    have hc : c.1 ≠ a := h c (by simp)
    have ih := ih fun d hd => h d (by simp [hd])
    by_cases hlt : a < c.1
    · simp [Memory.insert, hlt, Memory.get_cons, eq_comm]
    · simp only [Memory.insert, hlt, if_false, Memory.get_cons, ih]
      by_cases hx : x = a
      · subst hx; simp [hc]
      · simp [hx]

theorem Memory.get_unlist (m : Memory) (a x : Nat) :
    Memory.get (m.filter (fun c => c.1 != a)) x = if x = a then 0#8 else Memory.get m x := by
  induction m with
  | nil => simp
  | cons c m ih =>
    by_cases hc : c.1 = a
    · simp only [List.filter_cons, hc, bne_self_eq_false, Bool.false_eq_true, if_false, ih, Memory.get_cons]
      by_cases hx : x = a
      · simp [hx]
      · simp [hx, Ne.symm hx]
    · have : (c.1 != a) = true := by simpa using hc
      simp only [List.filter_cons, this, if_true, Memory.get_cons, ih]
      by_cases hx : x = a
      · subst hx; simp [hc]
      · simp [hx]

/-- A read after one write: the byte written at its address, everything else as before. -/
theorem Memory.get_set (m : Memory) (a : Nat) (b : Byte) (x : Nat) :
    Memory.get (Memory.set m a b) x = if x = a then b else Memory.get m x := by
  unfold Memory.set
  by_cases hb : b = 0#8
  · simp [hb, Memory.get_unlist]
  · simp only [hb, if_false]
    rw [Memory.get_insert b (by simp), Memory.get_unlist]
    by_cases hx : x = a <;> simp [hx]

@[simp] theorem Memory.get_set_self (m : Memory) (a : Nat) (b : Byte) : Memory.get (Memory.set m a b) a = b := by
  simp [Memory.get_set]

theorem Memory.get_set_other (m : Memory) (b : Byte) {a x : Nat} (h : x ≠ a) :
    Memory.get (Memory.set m a b) x = Memory.get m x := by
  simp [Memory.get_set, h]

theorem Memory.mem_insert {m : Memory} {a : Nat} {b : Byte} {c : Host.Cell} :
    c ∈ Memory.insert a b m ↔ c = (a, b) ∨ c ∈ m := by
  induction m with
  | nil => simp [Memory.insert]
  | cons d m ih =>
    by_cases h : a < d.1
    · simp [Memory.insert, h]
    · simp only [Memory.insert, h, if_false, List.mem_cons, ih]
      tauto

theorem Memory.rising_insert {m : Memory} {a : Nat} (b : Byte) (h : ∀ c ∈ m, c.1 ≠ a)
    (hm : m.Pairwise (fun p q => p.1 < q.1)) : (Memory.insert a b m).Pairwise (fun p q => p.1 < q.1) := by
  induction m with
  | nil => simp [Memory.insert]
  | cons d m ih =>
    have hd : d.1 ≠ a := h d (by simp)
    rw [List.pairwise_cons] at hm
    by_cases hlt : a < d.1
    · simp only [Memory.insert, hlt, if_true]
      refine List.pairwise_cons.2 ⟨fun c hc => ?_, List.pairwise_cons.2 hm⟩
      rcases List.mem_cons.1 hc with rfl | hc
      · exact hlt
      · exact lt_trans hlt (hm.1 c hc)
    · simp only [Memory.insert, hlt, if_false]
      refine List.pairwise_cons.2 ⟨fun c hc => ?_, ih (fun c hc => h c (by simp [hc])) hm.2⟩
      rcases Memory.mem_insert.1 hc with rfl | hc
      · show d.1 < a
        omega
      · exact hm.1 c hc

theorem Memory.wf_nil : Memory.wf [] := by simp [Memory.wf]

/-- Writing one byte at an address of the space keeps the canonical form. -/
theorem Memory.wf_set {m : Memory} (hm : Memory.wf m) {a : Nat} (ha : a ≤ lastAddr) (b : Byte) :
    Memory.wf (Memory.set m a b) := by
  have hf : (m.filter (fun c => c.1 != a)).Pairwise (fun p q => p.1 < q.1) := hm.1.filter _
  have hc : ∀ c ∈ m.filter (fun c => c.1 != a), c.1 ≤ lastAddr ∧ c.2 ≠ 0#8 :=
    fun c h => hm.2 c (List.mem_filter.1 h).1
  unfold Memory.set
  by_cases hb : b = 0#8
  · simp only [hb, if_true]
    exact ⟨hf, hc⟩
  · simp only [hb, if_false]
    refine ⟨Memory.rising_insert b (by simp) hf, fun c h => ?_⟩
    rcases Memory.mem_insert.1 h with rfl | h
    · exact ⟨ha, hb⟩
    · exact hc c h

/-- Storing a sequence keeps the canonical form, whether or not it meets the end of memory. -/
theorem Memory.wf_store {m : Memory} (hm : Memory.wf m) (a : Nat) (bs : List Byte) :
    Memory.wf (Memory.store m a bs).1 := by
  induction bs generalizing m a with
  | nil => exact hm
  | cons b bs ih =>
    by_cases h : lastAddr < a
    · simpa [Memory.store, h] using hm
    · simpa [Memory.store, h] using ih (Memory.wf_set hm (by omega) b) (a + 1)

/-- What a read gives after a sequence was stored: the bytes of the sequence at the addresses from `a` on
that exist, everything else as before. -/
theorem Memory.get_store (m : Memory) (a : Nat) (bs : List Byte) (x : Nat) :
    Memory.get (Memory.store m a bs).1 x =
      if a ≤ x ∧ x < a + bs.length ∧ x ≤ lastAddr then bs.getD (x - a) 0#8 else Memory.get m x := by
  induction bs generalizing m a with
  | nil => simp only [Memory.store, List.length_nil]; rw [if_neg (by omega)]
  | cons b bs ih =>
    by_cases h : lastAddr < a
    · simp only [Memory.store, h, if_true]
      rw [if_neg (by omega)]
    · simp only [Memory.store, h, if_false, ih, Memory.get_set, List.length_cons]
      by_cases hx : x = a
      · subst hx
        simp only [Nat.sub_self, List.getD_cons_zero, if_true]
        rw [if_neg (by omega), if_pos (by omega)]
      · by_cases hr : a + 1 ≤ x ∧ x < a + 1 + bs.length ∧ x ≤ lastAddr
        · rw [if_pos hr, if_pos (by omega)]
          obtain ⟨k, rfl⟩ : ∃ k, x = a + 1 + k := ⟨x - (a + 1), by omega⟩
          rw [show a + 1 + k - (a + 1) = k by omega, show a + 1 + k - a = k + 1 by omega,
            List.getD_cons_succ]
        · rw [if_neg hr, if_neg hx, if_neg (by omega)]

/-- Storing meets a bad address exactly when the sequence reaches above 4095, and then it is the first
such address. -/
theorem Memory.store_bad (m : Memory) (a : Nat) (bs : List Byte) :
    (Memory.store m a bs).2 =
      if bs = [] ∨ a + bs.length ≤ lastAddr + 1 then none else some (max a (lastAddr + 1)) := by
  induction bs generalizing m a with
  | nil => simp [Memory.store]
  | cons b bs ih =>
    by_cases h : lastAddr < a
    · simp only [Memory.store, h, if_true, List.length_cons]
      rw [if_neg (by simp; omega), max_eq_left (by omega)]
    · simp only [Memory.store, h, if_false, ih, List.length_cons]
      by_cases hr : bs = [] ∨ a + 1 + bs.length ≤ lastAddr + 1
      · have : bs.length + 1 + a ≤ lastAddr + 1 := by
          rcases hr with rfl | hr
          · simp only [List.length_nil]; omega
          · omega
        rw [if_pos hr, if_pos (Or.inr (by omega))]
      · rw [if_neg hr, if_neg (by simp; omega)]
        congr 1
        omega

/-- A loaded sequence: as many bytes as lie below the end of memory. -/
theorem Memory.length_load (m : Memory) (a k : Nat) :
    (Memory.load m a k).1.length = min k (lastAddr + 1 - a) := by
  induction k generalizing a with
  | zero => simp [Memory.load]
  | succ k ih =>
    by_cases h : lastAddr < a
    · simp only [Memory.load, h, if_true, List.length_nil]; omega
    · simp only [Memory.load, h, if_false, List.length_cons, ih]; omega

/-- The bytes loaded are the bytes at the addresses from `a` on. -/
theorem Memory.get_load (m : Memory) (a k j : Nat) (h : j < (Memory.load m a k).1.length) :
    (Memory.load m a k).1.getD j 0#8 = Memory.get m (a + j) := by
  induction k generalizing a j with
  | zero => simp [Memory.load] at h
  | succ k ih =>
    by_cases ha : lastAddr < a
    · simp [Memory.load, ha] at h
    · simp only [Memory.load, ha, if_false, List.length_cons] at h ⊢
      cases j with
      | zero => simp
      | succ j =>
        rw [List.getD_cons_succ, ih (a + 1) j (by omega)]
        congr 1
        omega

/-- Loading meets a bad address exactly when it reaches above 4095, and then it is the first such address. -/
theorem Memory.load_bad (m : Memory) (a k : Nat) :
    (Memory.load m a k).2 =
      if k = 0 ∨ a + k ≤ lastAddr + 1 then none else some (max a (lastAddr + 1)) := by
  induction k generalizing a with
  | zero => simp [Memory.load]
  | succ k ih =>
    by_cases h : lastAddr < a
    · simp only [Memory.load, h, if_true]
      rw [if_neg (by omega), max_eq_left (by omega)]
    · simp only [Memory.load, h, if_false, ih]
      by_cases hr : k = 0 ∨ a + 1 + k ≤ lastAddr + 1
      · rw [if_pos hr, if_pos (by omega)]
      · rw [if_neg hr, if_neg (by omega)]
        congr 1
        omega

/-- In canonical form a listed cell is what its address reads. -/
theorem Memory.get_of_mem {m : Memory} (hm : Memory.wf m) {c : Host.Cell} (h : c ∈ m) :
    Memory.get m c.1 = c.2 := by
  obtain ⟨hp, hc⟩ := hm
  induction m with
  | nil => simp at h
  | cons d m ih =>
    rw [List.pairwise_cons] at hp
    rcases List.mem_cons.1 h with rfl | h
    · simp [Memory.get_cons]
    · have : d.1 ≠ c.1 := Nat.ne_of_lt (hp.1 c h)
      rw [Memory.get_cons, if_neg this]
      exact ih h hp.2 fun e he => hc e (by simp [he])

/-- Two memories in canonical form that read alike are equal data. -/
theorem Memory.ext_of_get {m n : Memory} (hm : Memory.wf m) (hn : Memory.wf n)
    (h : ∀ a, Memory.get m a = Memory.get n a) : m = n := by
  have key : ∀ {p q : Memory}, Memory.wf p → Memory.wf q → (∀ a, Memory.get p a = Memory.get q a) →
      ∀ c ∈ p, c ∈ q := by
    intro p q hp hq hpq c hc
    have h1 : Memory.get q c.1 = c.2 := by rw [← hpq, Memory.get_of_mem hp hc]
    by_contra hcq
    have : ∃ d ∈ q, d.1 = c.1 := by
      by_contra hno
      have h0 : Memory.get q c.1 = 0#8 := Memory.get_of_not_listed fun d hd e => hno ⟨d, hd, e⟩
      exact (hp.2 c hc).2 (h1.symm.trans h0)
    obtain ⟨d, hd, hdc⟩ := this
    have hd2 : d.2 = c.2 := by rw [← Memory.get_of_mem hq hd, hdc, h1]
    exact hcq (by rwa [← show d = c from Prod.ext hdc hd2])
  have nodup : ∀ {p : Memory}, Memory.wf p → p.Nodup := fun hp =>
    hp.1.imp fun hlt e => by simp [e] at hlt
  have hperm : m.Perm n := (List.perm_ext_iff_of_nodup (nodup hm) (nodup hn)).2 fun c =>
    ⟨key hm hn h c, key hn hm (fun a => (h a).symm) c⟩
  exact hperm.eq_of_pairwise (fun p q _ _ h1 h2 => absurd h1 (Nat.lt_asymm h2)) hm.1 hn.1

end Sys2Proof.Machine
end

