-- ==== Sys2Proof/Laws/State.lean ====
section
/-! SUPPORT. The small lemmas of State: for each update one lemma a field, so that no proof unfolds a
record update, and what reading a register after a write gives. -/

namespace Sys2Proof.Machine

variable (s : State)

/-! ### setV -/

@[simp] theorem State.setV_cfg (x : RegIdx) (b : Byte) : (s.setV x b).cfg = s.cfg := rfl
@[simp] theorem State.setV_mem (x : RegIdx) (b : Byte) : (s.setV x b).mem = s.mem := rfl
@[simp] theorem State.setV_v (x : RegIdx) (b : Byte) : (s.setV x b).v = s.v.set x.val b := rfl
@[simp] theorem State.setV_index (x : RegIdx) (b : Byte) : (s.setV x b).index = s.index := rfl
@[simp] theorem State.setV_pc (x : RegIdx) (b : Byte) : (s.setV x b).pc = s.pc := rfl
@[simp] theorem State.setV_stack (x : RegIdx) (b : Byte) : (s.setV x b).stack = s.stack := rfl
@[simp] theorem State.setV_dt (x : RegIdx) (b : Byte) : (s.setV x b).dt = s.dt := rfl
@[simp] theorem State.setV_st (x : RegIdx) (b : Byte) : (s.setV x b).st = s.st := rfl
@[simp] theorem State.setV_disp (x : RegIdx) (b : Byte) : (s.setV x b).disp = s.disp := rfl
@[simp] theorem State.setV_run (x : RegIdx) (b : Byte) : (s.setV x b).run = s.run := rfl
@[simp] theorem State.setV_wait (x : RegIdx) (b : Byte) : (s.setV x b).wait = s.wait := rfl
@[simp] theorem State.setV_keypad (x : RegIdx) (b : Byte) : (s.setV x b).keypad = s.keypad := rfl
@[simp] theorem State.setV_result (x : RegIdx) (b : Byte) : (s.setV x b).result = s.result := rfl
@[simp] theorem State.setV_renders (x : RegIdx) (b : Byte) : (s.setV x b).renders = s.renders := rfl
@[simp] theorem State.setV_draws (x : RegIdx) (b : Byte) : (s.setV x b).draws = s.draws := rfl
@[simp] theorem State.setV_refusedLoads (x : RegIdx) (b : Byte) : (s.setV x b).refusedLoads = s.refusedLoads := rfl
@[simp] theorem State.setV_moves (x : RegIdx) (b : Byte) : (s.setV x b).moves = s.moves := rfl
@[simp] theorem State.setV_tornDown (x : RegIdx) (b : Byte) : (s.setV x b).tornDown = s.tornDown := rfl

/-! ### setFlag -/

@[simp] theorem State.setFlag_cfg (b : Bool) : (s.setFlag b).cfg = s.cfg := rfl
@[simp] theorem State.setFlag_mem (b : Bool) : (s.setFlag b).mem = s.mem := rfl
@[simp] theorem State.setFlag_v (b : Bool) : (s.setFlag b).v = s.v.set regF.val (flagByte b) := rfl
@[simp] theorem State.setFlag_index (b : Bool) : (s.setFlag b).index = s.index := rfl
@[simp] theorem State.setFlag_pc (b : Bool) : (s.setFlag b).pc = s.pc := rfl
@[simp] theorem State.setFlag_stack (b : Bool) : (s.setFlag b).stack = s.stack := rfl
@[simp] theorem State.setFlag_dt (b : Bool) : (s.setFlag b).dt = s.dt := rfl
@[simp] theorem State.setFlag_st (b : Bool) : (s.setFlag b).st = s.st := rfl
@[simp] theorem State.setFlag_disp (b : Bool) : (s.setFlag b).disp = s.disp := rfl
@[simp] theorem State.setFlag_run (b : Bool) : (s.setFlag b).run = s.run := rfl
@[simp] theorem State.setFlag_wait (b : Bool) : (s.setFlag b).wait = s.wait := rfl
@[simp] theorem State.setFlag_keypad (b : Bool) : (s.setFlag b).keypad = s.keypad := rfl
@[simp] theorem State.setFlag_result (b : Bool) : (s.setFlag b).result = s.result := rfl
@[simp] theorem State.setFlag_renders (b : Bool) : (s.setFlag b).renders = s.renders := rfl
@[simp] theorem State.setFlag_draws (b : Bool) : (s.setFlag b).draws = s.draws := rfl
@[simp] theorem State.setFlag_refusedLoads (b : Bool) : (s.setFlag b).refusedLoads = s.refusedLoads := rfl
@[simp] theorem State.setFlag_moves (b : Bool) : (s.setFlag b).moves = s.moves := rfl
@[simp] theorem State.setFlag_tornDown (b : Bool) : (s.setFlag b).tornDown = s.tornDown := rfl

/-! ### setIndex -/

@[simp] theorem State.setIndex_cfg (w : Word) : (s.setIndex w).cfg = s.cfg := rfl
@[simp] theorem State.setIndex_mem (w : Word) : (s.setIndex w).mem = s.mem := rfl
@[simp] theorem State.setIndex_v (w : Word) : (s.setIndex w).v = s.v := rfl
@[simp] theorem State.setIndex_index (w : Word) : (s.setIndex w).index = w := rfl
@[simp] theorem State.setIndex_pc (w : Word) : (s.setIndex w).pc = s.pc := rfl
@[simp] theorem State.setIndex_stack (w : Word) : (s.setIndex w).stack = s.stack := rfl
@[simp] theorem State.setIndex_dt (w : Word) : (s.setIndex w).dt = s.dt := rfl
@[simp] theorem State.setIndex_st (w : Word) : (s.setIndex w).st = s.st := rfl
@[simp] theorem State.setIndex_disp (w : Word) : (s.setIndex w).disp = s.disp := rfl
@[simp] theorem State.setIndex_run (w : Word) : (s.setIndex w).run = s.run := rfl
@[simp] theorem State.setIndex_wait (w : Word) : (s.setIndex w).wait = s.wait := rfl
@[simp] theorem State.setIndex_keypad (w : Word) : (s.setIndex w).keypad = s.keypad := rfl
@[simp] theorem State.setIndex_result (w : Word) : (s.setIndex w).result = s.result := rfl
@[simp] theorem State.setIndex_renders (w : Word) : (s.setIndex w).renders = s.renders := rfl
@[simp] theorem State.setIndex_draws (w : Word) : (s.setIndex w).draws = s.draws := rfl
@[simp] theorem State.setIndex_refusedLoads (w : Word) : (s.setIndex w).refusedLoads = s.refusedLoads := rfl
@[simp] theorem State.setIndex_moves (w : Word) : (s.setIndex w).moves = s.moves := rfl
@[simp] theorem State.setIndex_tornDown (w : Word) : (s.setIndex w).tornDown = s.tornDown := rfl

/-! ### setPc -/

@[simp] theorem State.setPc_cfg (w : Word) : (s.setPc w).cfg = s.cfg := rfl
@[simp] theorem State.setPc_mem (w : Word) : (s.setPc w).mem = s.mem := rfl
@[simp] theorem State.setPc_v (w : Word) : (s.setPc w).v = s.v := rfl
@[simp] theorem State.setPc_index (w : Word) : (s.setPc w).index = s.index := rfl
@[simp] theorem State.setPc_pc (w : Word) : (s.setPc w).pc = w := rfl
@[simp] theorem State.setPc_stack (w : Word) : (s.setPc w).stack = s.stack := rfl
@[simp] theorem State.setPc_dt (w : Word) : (s.setPc w).dt = s.dt := rfl
@[simp] theorem State.setPc_st (w : Word) : (s.setPc w).st = s.st := rfl
@[simp] theorem State.setPc_disp (w : Word) : (s.setPc w).disp = s.disp := rfl
@[simp] theorem State.setPc_run (w : Word) : (s.setPc w).run = s.run := rfl
@[simp] theorem State.setPc_wait (w : Word) : (s.setPc w).wait = s.wait := rfl
@[simp] theorem State.setPc_keypad (w : Word) : (s.setPc w).keypad = s.keypad := rfl
@[simp] theorem State.setPc_result (w : Word) : (s.setPc w).result = s.result := rfl
@[simp] theorem State.setPc_renders (w : Word) : (s.setPc w).renders = s.renders := rfl
@[simp] theorem State.setPc_draws (w : Word) : (s.setPc w).draws = s.draws := rfl
@[simp] theorem State.setPc_refusedLoads (w : Word) : (s.setPc w).refusedLoads = s.refusedLoads := rfl
@[simp] theorem State.setPc_moves (w : Word) : (s.setPc w).moves = s.moves := rfl
@[simp] theorem State.setPc_tornDown (w : Word) : (s.setPc w).tornDown = s.tornDown := rfl

/-! ### advance -/

@[simp] theorem State.advance_cfg : (s.advance).cfg = s.cfg := rfl
@[simp] theorem State.advance_mem : (s.advance).mem = s.mem := rfl
@[simp] theorem State.advance_v : (s.advance).v = s.v := rfl
@[simp] theorem State.advance_index : (s.advance).index = s.index := rfl
@[simp] theorem State.advance_pc : (s.advance).pc = s.pc + 2#16 := rfl
@[simp] theorem State.advance_stack : (s.advance).stack = s.stack := rfl
@[simp] theorem State.advance_dt : (s.advance).dt = s.dt := rfl
@[simp] theorem State.advance_st : (s.advance).st = s.st := rfl
@[simp] theorem State.advance_disp : (s.advance).disp = s.disp := rfl
@[simp] theorem State.advance_run : (s.advance).run = s.run := rfl
@[simp] theorem State.advance_wait : (s.advance).wait = s.wait := rfl
@[simp] theorem State.advance_keypad : (s.advance).keypad = s.keypad := rfl
@[simp] theorem State.advance_result : (s.advance).result = s.result := rfl
@[simp] theorem State.advance_renders : (s.advance).renders = s.renders := rfl
@[simp] theorem State.advance_draws : (s.advance).draws = s.draws := rfl
@[simp] theorem State.advance_refusedLoads : (s.advance).refusedLoads = s.refusedLoads := rfl
@[simp] theorem State.advance_moves : (s.advance).moves = s.moves := rfl
@[simp] theorem State.advance_tornDown : (s.advance).tornDown = s.tornDown := rfl

/-! ### setMem -/

@[simp] theorem State.setMem_cfg (m : Memory) : (s.setMem m).cfg = s.cfg := rfl
@[simp] theorem State.setMem_mem (m : Memory) : (s.setMem m).mem = m := rfl
@[simp] theorem State.setMem_v (m : Memory) : (s.setMem m).v = s.v := rfl
@[simp] theorem State.setMem_index (m : Memory) : (s.setMem m).index = s.index := rfl
@[simp] theorem State.setMem_pc (m : Memory) : (s.setMem m).pc = s.pc := rfl
@[simp] theorem State.setMem_stack (m : Memory) : (s.setMem m).stack = s.stack := rfl
@[simp] theorem State.setMem_dt (m : Memory) : (s.setMem m).dt = s.dt := rfl
@[simp] theorem State.setMem_st (m : Memory) : (s.setMem m).st = s.st := rfl
@[simp] theorem State.setMem_disp (m : Memory) : (s.setMem m).disp = s.disp := rfl
@[simp] theorem State.setMem_run (m : Memory) : (s.setMem m).run = s.run := rfl
@[simp] theorem State.setMem_wait (m : Memory) : (s.setMem m).wait = s.wait := rfl
@[simp] theorem State.setMem_keypad (m : Memory) : (s.setMem m).keypad = s.keypad := rfl
@[simp] theorem State.setMem_result (m : Memory) : (s.setMem m).result = s.result := rfl
@[simp] theorem State.setMem_renders (m : Memory) : (s.setMem m).renders = s.renders := rfl
@[simp] theorem State.setMem_draws (m : Memory) : (s.setMem m).draws = s.draws := rfl
@[simp] theorem State.setMem_refusedLoads (m : Memory) : (s.setMem m).refusedLoads = s.refusedLoads := rfl
@[simp] theorem State.setMem_moves (m : Memory) : (s.setMem m).moves = s.moves := rfl
@[simp] theorem State.setMem_tornDown (m : Memory) : (s.setMem m).tornDown = s.tornDown := rfl

/-! ### fill -/

@[simp] theorem State.fill_cfg (bs : List Byte) : (s.fill bs).cfg = s.cfg := rfl
@[simp] theorem State.fill_mem (bs : List Byte) : (s.fill bs).mem = s.mem := rfl
@[simp] theorem State.fill_v (bs : List Byte) : (s.fill bs).v = fillV s.v 0 bs := rfl
@[simp] theorem State.fill_index (bs : List Byte) : (s.fill bs).index = s.index := rfl
@[simp] theorem State.fill_pc (bs : List Byte) : (s.fill bs).pc = s.pc := rfl
@[simp] theorem State.fill_stack (bs : List Byte) : (s.fill bs).stack = s.stack := rfl
@[simp] theorem State.fill_dt (bs : List Byte) : (s.fill bs).dt = s.dt := rfl
@[simp] theorem State.fill_st (bs : List Byte) : (s.fill bs).st = s.st := rfl
@[simp] theorem State.fill_disp (bs : List Byte) : (s.fill bs).disp = s.disp := rfl
@[simp] theorem State.fill_run (bs : List Byte) : (s.fill bs).run = s.run := rfl
@[simp] theorem State.fill_wait (bs : List Byte) : (s.fill bs).wait = s.wait := rfl
@[simp] theorem State.fill_keypad (bs : List Byte) : (s.fill bs).keypad = s.keypad := rfl
@[simp] theorem State.fill_result (bs : List Byte) : (s.fill bs).result = s.result := rfl
@[simp] theorem State.fill_renders (bs : List Byte) : (s.fill bs).renders = s.renders := rfl
@[simp] theorem State.fill_draws (bs : List Byte) : (s.fill bs).draws = s.draws := rfl
@[simp] theorem State.fill_refusedLoads (bs : List Byte) : (s.fill bs).refusedLoads = s.refusedLoads := rfl
@[simp] theorem State.fill_moves (bs : List Byte) : (s.fill bs).moves = s.moves := rfl
@[simp] theorem State.fill_tornDown (bs : List Byte) : (s.fill bs).tornDown = s.tornDown := rfl

/-! ### setDisp -/

@[simp] theorem State.setDisp_cfg (d : Display) : (s.setDisp d).cfg = s.cfg := rfl
@[simp] theorem State.setDisp_mem (d : Display) : (s.setDisp d).mem = s.mem := rfl
@[simp] theorem State.setDisp_v (d : Display) : (s.setDisp d).v = s.v := rfl
@[simp] theorem State.setDisp_index (d : Display) : (s.setDisp d).index = s.index := rfl
@[simp] theorem State.setDisp_pc (d : Display) : (s.setDisp d).pc = s.pc := rfl
@[simp] theorem State.setDisp_stack (d : Display) : (s.setDisp d).stack = s.stack := rfl
@[simp] theorem State.setDisp_dt (d : Display) : (s.setDisp d).dt = s.dt := rfl
@[simp] theorem State.setDisp_st (d : Display) : (s.setDisp d).st = s.st := rfl
@[simp] theorem State.setDisp_disp (d : Display) : (s.setDisp d).disp = d := rfl
@[simp] theorem State.setDisp_run (d : Display) : (s.setDisp d).run = s.run := rfl
@[simp] theorem State.setDisp_wait (d : Display) : (s.setDisp d).wait = s.wait := rfl
@[simp] theorem State.setDisp_keypad (d : Display) : (s.setDisp d).keypad = s.keypad := rfl
@[simp] theorem State.setDisp_result (d : Display) : (s.setDisp d).result = s.result := rfl
@[simp] theorem State.setDisp_renders (d : Display) : (s.setDisp d).renders = s.renders := rfl
@[simp] theorem State.setDisp_draws (d : Display) : (s.setDisp d).draws = s.draws := rfl
@[simp] theorem State.setDisp_refusedLoads (d : Display) : (s.setDisp d).refusedLoads = s.refusedLoads := rfl
@[simp] theorem State.setDisp_moves (d : Display) : (s.setDisp d).moves = s.moves := rfl
@[simp] theorem State.setDisp_tornDown (d : Display) : (s.setDisp d).tornDown = s.tornDown := rfl

/-! ### render -/

@[simp] theorem State.render_cfg : (s.render).cfg = s.cfg := rfl
@[simp] theorem State.render_mem : (s.render).mem = s.mem := rfl
@[simp] theorem State.render_v : (s.render).v = s.v := rfl
@[simp] theorem State.render_index : (s.render).index = s.index := rfl
@[simp] theorem State.render_pc : (s.render).pc = s.pc := rfl
@[simp] theorem State.render_stack : (s.render).stack = s.stack := rfl
@[simp] theorem State.render_dt : (s.render).dt = s.dt := rfl
@[simp] theorem State.render_st : (s.render).st = s.st := rfl
@[simp] theorem State.render_disp : (s.render).disp = s.disp := rfl
@[simp] theorem State.render_run : (s.render).run = s.run := rfl
@[simp] theorem State.render_wait : (s.render).wait = s.wait := rfl
@[simp] theorem State.render_keypad : (s.render).keypad = s.keypad := rfl
@[simp] theorem State.render_result : (s.render).result = s.result := rfl
@[simp] theorem State.render_renders : (s.render).renders = s.disp :: s.renders := rfl
@[simp] theorem State.render_draws : (s.render).draws = s.draws := rfl
@[simp] theorem State.render_refusedLoads : (s.render).refusedLoads = s.refusedLoads := rfl
@[simp] theorem State.render_moves : (s.render).moves = s.moves := rfl
@[simp] theorem State.render_tornDown : (s.render).tornDown = s.tornDown := rfl

/-! ### drawn -/

@[simp] theorem State.drawn_cfg : (s.drawn).cfg = s.cfg := rfl
@[simp] theorem State.drawn_mem : (s.drawn).mem = s.mem := rfl
@[simp] theorem State.drawn_v : (s.drawn).v = s.v := rfl
@[simp] theorem State.drawn_index : (s.drawn).index = s.index := rfl
@[simp] theorem State.drawn_pc : (s.drawn).pc = s.pc := rfl
@[simp] theorem State.drawn_stack : (s.drawn).stack = s.stack := rfl
@[simp] theorem State.drawn_dt : (s.drawn).dt = s.dt := rfl
@[simp] theorem State.drawn_st : (s.drawn).st = s.st := rfl
@[simp] theorem State.drawn_disp : (s.drawn).disp = s.disp := rfl
@[simp] theorem State.drawn_run : (s.drawn).run = s.run := rfl
@[simp] theorem State.drawn_wait : (s.drawn).wait = s.wait := rfl
@[simp] theorem State.drawn_keypad : (s.drawn).keypad = s.keypad := rfl
@[simp] theorem State.drawn_result : (s.drawn).result = s.result := rfl
@[simp] theorem State.drawn_renders : (s.drawn).renders = s.renders := rfl
@[simp] theorem State.drawn_draws : (s.drawn).draws = s.draws + 1 := rfl
@[simp] theorem State.drawn_refusedLoads : (s.drawn).refusedLoads = s.refusedLoads := rfl
@[simp] theorem State.drawn_moves : (s.drawn).moves = s.moves := rfl
@[simp] theorem State.drawn_tornDown : (s.drawn).tornDown = s.tornDown := rfl

/-! ### raise -/

@[simp] theorem State.raise_cfg (e : CycleError) : (s.raise e).cfg = s.cfg := rfl
@[simp] theorem State.raise_mem (e : CycleError) : (s.raise e).mem = s.mem := rfl
@[simp] theorem State.raise_v (e : CycleError) : (s.raise e).v = s.v := rfl
@[simp] theorem State.raise_index (e : CycleError) : (s.raise e).index = s.index := rfl
@[simp] theorem State.raise_pc (e : CycleError) : (s.raise e).pc = s.pc := rfl
@[simp] theorem State.raise_stack (e : CycleError) : (s.raise e).stack = s.stack := rfl
@[simp] theorem State.raise_dt (e : CycleError) : (s.raise e).dt = s.dt := rfl
@[simp] theorem State.raise_st (e : CycleError) : (s.raise e).st = s.st := rfl
@[simp] theorem State.raise_disp (e : CycleError) : (s.raise e).disp = s.disp := rfl
@[simp] theorem State.raise_run (e : CycleError) : (s.raise e).run = if e.fatal then .halted else s.run := rfl
@[simp] theorem State.raise_wait (e : CycleError) : (s.raise e).wait = s.wait := rfl
@[simp] theorem State.raise_keypad (e : CycleError) : (s.raise e).keypad = s.keypad := rfl
@[simp] theorem State.raise_result (e : CycleError) : (s.raise e).result = some (.error e) := rfl
@[simp] theorem State.raise_renders (e : CycleError) : (s.raise e).renders = s.renders := rfl
@[simp] theorem State.raise_draws (e : CycleError) : (s.raise e).draws = s.draws := rfl
@[simp] theorem State.raise_refusedLoads (e : CycleError) : (s.raise e).refusedLoads = s.refusedLoads := rfl
@[simp] theorem State.raise_moves (e : CycleError) : (s.raise e).moves = s.moves := rfl
@[simp] theorem State.raise_tornDown (e : CycleError) : (s.raise e).tornDown = s.tornDown := rfl

/-! ### finish -/

@[simp] theorem State.finish_cfg : (s.finish).cfg = s.cfg := rfl
@[simp] theorem State.finish_mem : (s.finish).mem = s.mem := rfl
@[simp] theorem State.finish_v : (s.finish).v = s.v := rfl
@[simp] theorem State.finish_index : (s.finish).index = s.index := rfl
@[simp] theorem State.finish_pc : (s.finish).pc = s.pc := rfl
@[simp] theorem State.finish_stack : (s.finish).stack = s.stack := rfl
@[simp] theorem State.finish_dt : (s.finish).dt = s.dt := rfl
@[simp] theorem State.finish_st : (s.finish).st = s.st := rfl
@[simp] theorem State.finish_disp : (s.finish).disp = s.disp := rfl
@[simp] theorem State.finish_run : (s.finish).run = s.run := rfl
@[simp] theorem State.finish_wait : (s.finish).wait = s.wait := rfl
@[simp] theorem State.finish_keypad : (s.finish).keypad = s.keypad := rfl
@[simp] theorem State.finish_result : (s.finish).result = some .ok := rfl
@[simp] theorem State.finish_renders : (s.finish).renders = s.renders := rfl
@[simp] theorem State.finish_draws : (s.finish).draws = s.draws := rfl
@[simp] theorem State.finish_refusedLoads : (s.finish).refusedLoads = s.refusedLoads := rfl
@[simp] theorem State.finish_moves : (s.finish).moves = s.moves := rfl
@[simp] theorem State.finish_tornDown : (s.finish).tornDown = s.tornDown := rfl

/-! ### block -/

@[simp] theorem State.block_cfg (w : Wait) : (s.block w).cfg = s.cfg := rfl
@[simp] theorem State.block_mem (w : Wait) : (s.block w).mem = s.mem := rfl
@[simp] theorem State.block_v (w : Wait) : (s.block w).v = s.v := rfl
@[simp] theorem State.block_index (w : Wait) : (s.block w).index = s.index := rfl
@[simp] theorem State.block_pc (w : Wait) : (s.block w).pc = s.pc := rfl
@[simp] theorem State.block_stack (w : Wait) : (s.block w).stack = s.stack := rfl
@[simp] theorem State.block_dt (w : Wait) : (s.block w).dt = s.dt := rfl
@[simp] theorem State.block_st (w : Wait) : (s.block w).st = s.st := rfl
@[simp] theorem State.block_disp (w : Wait) : (s.block w).disp = s.disp := rfl
@[simp] theorem State.block_run (w : Wait) : (s.block w).run = s.run := rfl
@[simp] theorem State.block_wait (w : Wait) : (s.block w).wait = some w := rfl
@[simp] theorem State.block_keypad (w : Wait) : (s.block w).keypad = s.keypad := rfl
@[simp] theorem State.block_result (w : Wait) : (s.block w).result = s.result := rfl
@[simp] theorem State.block_renders (w : Wait) : (s.block w).renders = s.renders := rfl
@[simp] theorem State.block_draws (w : Wait) : (s.block w).draws = s.draws := rfl
@[simp] theorem State.block_refusedLoads (w : Wait) : (s.block w).refusedLoads = s.refusedLoads := rfl
@[simp] theorem State.block_moves (w : Wait) : (s.block w).moves = s.moves := rfl
@[simp] theorem State.block_tornDown (w : Wait) : (s.block w).tornDown = s.tornDown := rfl

/-! ### deliver -/

@[simp] theorem State.deliver_cfg (x : RegIdx) (k : Nibble) : (s.deliver x k).cfg = s.cfg := rfl
@[simp] theorem State.deliver_mem (x : RegIdx) (k : Nibble) : (s.deliver x k).mem = s.mem := rfl
@[simp] theorem State.deliver_v (x : RegIdx) (k : Nibble) : (s.deliver x k).v = s.v.set x.val (k.setWidth 8) := rfl
@[simp] theorem State.deliver_index (x : RegIdx) (k : Nibble) : (s.deliver x k).index = s.index := rfl
@[simp] theorem State.deliver_pc (x : RegIdx) (k : Nibble) : (s.deliver x k).pc = s.pc := rfl
@[simp] theorem State.deliver_stack (x : RegIdx) (k : Nibble) : (s.deliver x k).stack = s.stack := rfl
@[simp] theorem State.deliver_dt (x : RegIdx) (k : Nibble) : (s.deliver x k).dt = s.dt := rfl
@[simp] theorem State.deliver_st (x : RegIdx) (k : Nibble) : (s.deliver x k).st = s.st := rfl
@[simp] theorem State.deliver_disp (x : RegIdx) (k : Nibble) : (s.deliver x k).disp = s.disp := rfl
@[simp] theorem State.deliver_run (x : RegIdx) (k : Nibble) : (s.deliver x k).run = s.run := rfl
@[simp] theorem State.deliver_wait (x : RegIdx) (k : Nibble) : (s.deliver x k).wait = none := rfl
@[simp] theorem State.deliver_keypad (x : RegIdx) (k : Nibble) : (s.deliver x k).keypad = s.keypad := rfl
@[simp] theorem State.deliver_result (x : RegIdx) (k : Nibble) : (s.deliver x k).result = some .ok := rfl
@[simp] theorem State.deliver_renders (x : RegIdx) (k : Nibble) : (s.deliver x k).renders = s.renders := rfl
@[simp] theorem State.deliver_draws (x : RegIdx) (k : Nibble) : (s.deliver x k).draws = s.draws := rfl
@[simp] theorem State.deliver_refusedLoads (x : RegIdx) (k : Nibble) : (s.deliver x k).refusedLoads = s.refusedLoads := rfl
@[simp] theorem State.deliver_moves (x : RegIdx) (k : Nibble) : (s.deliver x k).moves = s.moves := rfl
@[simp] theorem State.deliver_tornDown (x : RegIdx) (k : Nibble) : (s.deliver x k).tornDown = s.tornDown := rfl

/-! ### cancelWait -/

@[simp] theorem State.cancelWait_cfg : (s.cancelWait).cfg = s.cfg := rfl
@[simp] theorem State.cancelWait_mem : (s.cancelWait).mem = s.mem := rfl
@[simp] theorem State.cancelWait_v : (s.cancelWait).v = s.v := rfl
@[simp] theorem State.cancelWait_index : (s.cancelWait).index = s.index := rfl
@[simp] theorem State.cancelWait_pc : (s.cancelWait).pc = s.pc := rfl
@[simp] theorem State.cancelWait_stack : (s.cancelWait).stack = s.stack := rfl
@[simp] theorem State.cancelWait_dt : (s.cancelWait).dt = s.dt := rfl
@[simp] theorem State.cancelWait_st : (s.cancelWait).st = s.st := rfl
@[simp] theorem State.cancelWait_disp : (s.cancelWait).disp = s.disp := rfl
@[simp] theorem State.cancelWait_run : (s.cancelWait).run = s.run := rfl
@[simp] theorem State.cancelWait_wait : (s.cancelWait).wait = none := rfl
@[simp] theorem State.cancelWait_keypad : (s.cancelWait).keypad = s.keypad := rfl
@[simp] theorem State.cancelWait_result : (s.cancelWait).result = some (.error .cancelled) := rfl
@[simp] theorem State.cancelWait_renders : (s.cancelWait).renders = s.renders := rfl
@[simp] theorem State.cancelWait_draws : (s.cancelWait).draws = s.draws := rfl
@[simp] theorem State.cancelWait_refusedLoads : (s.cancelWait).refusedLoads = s.refusedLoads := rfl
@[simp] theorem State.cancelWait_moves : (s.cancelWait).moves = s.moves := rfl
@[simp] theorem State.cancelWait_tornDown : (s.cancelWait).tornDown = s.tornDown := rfl

/-! ### returnRender -/

@[simp] theorem State.returnRender_cfg : (s.returnRender).cfg = s.cfg := rfl
@[simp] theorem State.returnRender_mem : (s.returnRender).mem = s.mem := rfl
@[simp] theorem State.returnRender_v : (s.returnRender).v = s.v := rfl
@[simp] theorem State.returnRender_index : (s.returnRender).index = s.index := rfl
@[simp] theorem State.returnRender_pc : (s.returnRender).pc = s.pc := rfl
@[simp] theorem State.returnRender_stack : (s.returnRender).stack = s.stack := rfl
@[simp] theorem State.returnRender_dt : (s.returnRender).dt = s.dt := rfl
@[simp] theorem State.returnRender_st : (s.returnRender).st = s.st := rfl
@[simp] theorem State.returnRender_disp : (s.returnRender).disp = s.disp := rfl
@[simp] theorem State.returnRender_run : (s.returnRender).run = s.run := rfl
@[simp] theorem State.returnRender_wait : (s.returnRender).wait = none := rfl
@[simp] theorem State.returnRender_keypad : (s.returnRender).keypad = s.keypad := rfl
@[simp] theorem State.returnRender_result : (s.returnRender).result = some .ok := rfl
@[simp] theorem State.returnRender_renders : (s.returnRender).renders = s.renders := rfl
@[simp] theorem State.returnRender_draws : (s.returnRender).draws = s.draws := rfl
@[simp] theorem State.returnRender_refusedLoads : (s.returnRender).refusedLoads = s.refusedLoads := rfl
@[simp] theorem State.returnRender_moves : (s.returnRender).moves = s.moves := rfl
@[simp] theorem State.returnRender_tornDown : (s.returnRender).tornDown = s.tornDown := rfl

/-! ### dropMove -/

@[simp] theorem State.dropMove_cfg : (s.dropMove).cfg = s.cfg := rfl
@[simp] theorem State.dropMove_mem : (s.dropMove).mem = s.mem := rfl
@[simp] theorem State.dropMove_v : (s.dropMove).v = s.v := rfl
@[simp] theorem State.dropMove_index : (s.dropMove).index = s.index := rfl
@[simp] theorem State.dropMove_pc : (s.dropMove).pc = s.pc := rfl
@[simp] theorem State.dropMove_stack : (s.dropMove).stack = s.stack := rfl
@[simp] theorem State.dropMove_dt : (s.dropMove).dt = s.dt := rfl
@[simp] theorem State.dropMove_st : (s.dropMove).st = s.st := rfl
@[simp] theorem State.dropMove_disp : (s.dropMove).disp = s.disp := rfl
@[simp] theorem State.dropMove_run : (s.dropMove).run = s.run := rfl
@[simp] theorem State.dropMove_wait : (s.dropMove).wait = s.wait := rfl
@[simp] theorem State.dropMove_keypad : (s.dropMove).keypad = s.keypad := rfl
@[simp] theorem State.dropMove_result : (s.dropMove).result = s.result := rfl
@[simp] theorem State.dropMove_renders : (s.dropMove).renders = s.renders := rfl
@[simp] theorem State.dropMove_draws : (s.dropMove).draws = s.draws := rfl
@[simp] theorem State.dropMove_refusedLoads : (s.dropMove).refusedLoads = s.refusedLoads := rfl
@[simp] theorem State.dropMove_moves : (s.dropMove).moves = s.moves.tail := rfl
@[simp] theorem State.dropMove_tornDown : (s.dropMove).tornDown = s.tornDown := rfl

/-! ### loaded -/

@[simp] theorem State.loaded_cfg (font prog : List Byte) : (s.loaded font prog).cfg = s.cfg := rfl
@[simp] theorem State.loaded_mem (font prog : List Byte) : (s.loaded font prog).mem = loadMemory s.cfg.fontBaseAddress font prog := rfl
@[simp] theorem State.loaded_v (font prog : List Byte) : (s.loaded font prog).v = Vector.replicate 16 0#8 := rfl
@[simp] theorem State.loaded_index (font prog : List Byte) : (s.loaded font prog).index = 0#16 := rfl
@[simp] theorem State.loaded_pc (font prog : List Byte) : (s.loaded font prog).pc = 0x200#16 := rfl
@[simp] theorem State.loaded_stack (font prog : List Byte) : (s.loaded font prog).stack = [] := rfl
@[simp] theorem State.loaded_dt (font prog : List Byte) : (s.loaded font prog).dt = 0#8 := rfl
@[simp] theorem State.loaded_st (font prog : List Byte) : (s.loaded font prog).st = 0#8 := rfl
@[simp] theorem State.loaded_disp (font prog : List Byte) : (s.loaded font prog).disp = [] := rfl
@[simp] theorem State.loaded_run (font prog : List Byte) : (s.loaded font prog).run = .running := rfl
@[simp] theorem State.loaded_wait (font prog : List Byte) : (s.loaded font prog).wait = s.wait := rfl
@[simp] theorem State.loaded_keypad (font prog : List Byte) : (s.loaded font prog).keypad = s.keypad := rfl
@[simp] theorem State.loaded_result (font prog : List Byte) : (s.loaded font prog).result = none := rfl
@[simp] theorem State.loaded_renders (font prog : List Byte) : (s.loaded font prog).renders = s.renders := rfl
@[simp] theorem State.loaded_draws (font prog : List Byte) : (s.loaded font prog).draws = s.draws := rfl
@[simp] theorem State.loaded_refusedLoads (font prog : List Byte) : (s.loaded font prog).refusedLoads = s.refusedLoads := rfl
@[simp] theorem State.loaded_moves (font prog : List Byte) : (s.loaded font prog).moves = s.moves := rfl
@[simp] theorem State.loaded_tornDown (font prog : List Byte) : (s.loaded font prog).tornDown = s.tornDown := rfl

/-! ### loadRefused -/

@[simp] theorem State.loadRefused_cfg (why : LoadRefusal) : (s.loadRefused why).cfg = s.cfg := rfl
@[simp] theorem State.loadRefused_run (why : LoadRefusal) : (s.loadRefused why).run = .halted := rfl
@[simp] theorem State.loadRefused_wait (why : LoadRefusal) : (s.loadRefused why).wait = s.wait := rfl
@[simp] theorem State.loadRefused_keypad (why : LoadRefusal) : (s.loadRefused why).keypad = s.keypad := rfl
@[simp] theorem State.loadRefused_result (why : LoadRefusal) : (s.loadRefused why).result = some (.loadRefused why) := rfl
@[simp] theorem State.loadRefused_renders (why : LoadRefusal) : (s.loadRefused why).renders = s.renders := rfl
@[simp] theorem State.loadRefused_draws (why : LoadRefusal) : (s.loadRefused why).draws = s.draws := rfl
@[simp] theorem State.loadRefused_refusedLoads (why : LoadRefusal) : (s.loadRefused why).refusedLoads = s.refusedLoads + 1 := rfl
@[simp] theorem State.loadRefused_moves (why : LoadRefusal) : (s.loadRefused why).moves = s.moves := rfl
@[simp] theorem State.loadRefused_tornDown (why : LoadRefusal) : (s.loadRefused why).tornDown = s.tornDown := rfl

/-! ### skipIf, timerSet, tick, stepIndex -/

@[simp] theorem State.skipIf_cfg (c : Bool) : (s.skipIf c).cfg = s.cfg := by cases c <;> rfl
@[simp] theorem State.skipIf_mem (c : Bool) : (s.skipIf c).mem = s.mem := by cases c <;> rfl
@[simp] theorem State.skipIf_v (c : Bool) : (s.skipIf c).v = s.v := by cases c <;> rfl
@[simp] theorem State.skipIf_index (c : Bool) : (s.skipIf c).index = s.index := by cases c <;> rfl
@[simp] theorem State.skipIf_pc (c : Bool) : (s.skipIf c).pc = if c then s.pc + 2#16 else s.pc := by
  cases c <;> rfl
@[simp] theorem State.skipIf_stack (c : Bool) : (s.skipIf c).stack = s.stack := by cases c <;> rfl
@[simp] theorem State.skipIf_dt (c : Bool) : (s.skipIf c).dt = s.dt := by cases c <;> rfl
@[simp] theorem State.skipIf_st (c : Bool) : (s.skipIf c).st = s.st := by cases c <;> rfl
@[simp] theorem State.skipIf_disp (c : Bool) : (s.skipIf c).disp = s.disp := by cases c <;> rfl
@[simp] theorem State.skipIf_run (c : Bool) : (s.skipIf c).run = s.run := by cases c <;> rfl
@[simp] theorem State.skipIf_wait (c : Bool) : (s.skipIf c).wait = s.wait := by cases c <;> rfl
@[simp] theorem State.skipIf_keypad (c : Bool) : (s.skipIf c).keypad = s.keypad := by cases c <;> rfl
@[simp] theorem State.skipIf_result (c : Bool) : (s.skipIf c).result = s.result := by cases c <;> rfl
@[simp] theorem State.skipIf_renders (c : Bool) : (s.skipIf c).renders = s.renders := by cases c <;> rfl
@[simp] theorem State.skipIf_draws (c : Bool) : (s.skipIf c).draws = s.draws := by cases c <;> rfl
@[simp] theorem State.skipIf_refusedLoads (c : Bool) : (s.skipIf c).refusedLoads = s.refusedLoads := by cases c <;> rfl
@[simp] theorem State.skipIf_moves (c : Bool) : (s.skipIf c).moves = s.moves := by cases c <;> rfl
@[simp] theorem State.skipIf_tornDown (c : Bool) : (s.skipIf c).tornDown = s.tornDown := by cases c <;> rfl

@[simp] theorem State.timerSet_cfg (t : Timer) (b : Byte) : (s.timerSet t b).cfg = s.cfg := by
  cases t <;> rfl
@[simp] theorem State.timerSet_mem (t : Timer) (b : Byte) : (s.timerSet t b).mem = s.mem := by
  cases t <;> rfl
@[simp] theorem State.timerSet_v (t : Timer) (b : Byte) : (s.timerSet t b).v = s.v := by
  cases t <;> rfl
@[simp] theorem State.timerSet_index (t : Timer) (b : Byte) : (s.timerSet t b).index = s.index := by
  cases t <;> rfl
@[simp] theorem State.timerSet_pc (t : Timer) (b : Byte) : (s.timerSet t b).pc = s.pc := by
  cases t <;> rfl
@[simp] theorem State.timerSet_stack (t : Timer) (b : Byte) : (s.timerSet t b).stack = s.stack := by
  cases t <;> rfl
@[simp] theorem State.timerSet_dt (t : Timer) (b : Byte) :
    (s.timerSet t b).dt = if t = .delay then b else s.dt := by
  cases t <;> rfl
@[simp] theorem State.timerSet_st (t : Timer) (b : Byte) :
    (s.timerSet t b).st = if t = .sound then b else s.st := by
  cases t <;> rfl
@[simp] theorem State.timerSet_disp (t : Timer) (b : Byte) : (s.timerSet t b).disp = s.disp := by
  cases t <;> rfl
@[simp] theorem State.timerSet_run (t : Timer) (b : Byte) : (s.timerSet t b).run = s.run := by
  cases t <;> rfl
@[simp] theorem State.timerSet_wait (t : Timer) (b : Byte) : (s.timerSet t b).wait = s.wait := by
  cases t <;> rfl
@[simp] theorem State.timerSet_keypad (t : Timer) (b : Byte) : (s.timerSet t b).keypad = s.keypad := by
  cases t <;> rfl
@[simp] theorem State.timerSet_result (t : Timer) (b : Byte) : (s.timerSet t b).result = s.result := by
  cases t <;> rfl
@[simp] theorem State.timerSet_renders (t : Timer) (b : Byte) : (s.timerSet t b).renders = s.renders := by
  cases t <;> rfl
@[simp] theorem State.timerSet_draws (t : Timer) (b : Byte) : (s.timerSet t b).draws = s.draws := by
  cases t <;> rfl
@[simp] theorem State.timerSet_refusedLoads (t : Timer) (b : Byte) : (s.timerSet t b).refusedLoads = s.refusedLoads := by
  cases t <;> rfl
@[simp] theorem State.timerSet_moves (t : Timer) (b : Byte) : (s.timerSet t b).moves = s.moves := by
  cases t <;> rfl
@[simp] theorem State.timerSet_tornDown (t : Timer) (b : Byte) : (s.timerSet t b).tornDown = s.tornDown := by
  cases t <;> rfl

@[simp] theorem State.tick_cfg (t : Timer) : (s.tick t).cfg = s.cfg := by
  unfold State.tick; split <;> simp
@[simp] theorem State.tick_mem (t : Timer) : (s.tick t).mem = s.mem := by
  unfold State.tick; split <;> simp
@[simp] theorem State.tick_v (t : Timer) : (s.tick t).v = s.v := by
  unfold State.tick; split <;> simp
@[simp] theorem State.tick_index (t : Timer) : (s.tick t).index = s.index := by
  unfold State.tick; split <;> simp
@[simp] theorem State.tick_pc (t : Timer) : (s.tick t).pc = s.pc := by
  unfold State.tick; split <;> simp
@[simp] theorem State.tick_stack (t : Timer) : (s.tick t).stack = s.stack := by
  unfold State.tick; split <;> simp
theorem State.tick_dt (t : Timer) :
    (s.tick t).dt = if t = .delay ∧ s.dt ≠ 0#8 then s.dt - 1#8 else s.dt := by
  by_cases h : s.timerGet t = 0#8 <;> cases t <;> simp_all [State.tick, State.timerGet]
theorem State.tick_st (t : Timer) :
    (s.tick t).st = if t = .sound ∧ s.st ≠ 0#8 then s.st - 1#8 else s.st := by
  by_cases h : s.timerGet t = 0#8 <;> cases t <;> simp_all [State.tick, State.timerGet]
@[simp] theorem State.tick_disp (t : Timer) : (s.tick t).disp = s.disp := by
  unfold State.tick; split <;> simp
@[simp] theorem State.tick_run (t : Timer) : (s.tick t).run = s.run := by
  unfold State.tick; split <;> simp
@[simp] theorem State.tick_wait (t : Timer) : (s.tick t).wait = s.wait := by
  unfold State.tick; split <;> simp
@[simp] theorem State.tick_keypad (t : Timer) : (s.tick t).keypad = s.keypad := by
  unfold State.tick; split <;> simp
@[simp] theorem State.tick_result (t : Timer) : (s.tick t).result = s.result := by
  unfold State.tick; split <;> simp
@[simp] theorem State.tick_renders (t : Timer) : (s.tick t).renders = s.renders := by
  unfold State.tick; split <;> simp
@[simp] theorem State.tick_draws (t : Timer) : (s.tick t).draws = s.draws := by
  unfold State.tick; split <;> simp
@[simp] theorem State.tick_refusedLoads (t : Timer) : (s.tick t).refusedLoads = s.refusedLoads := by
  unfold State.tick; split <;> simp
@[simp] theorem State.tick_moves (t : Timer) : (s.tick t).moves = s.moves := by
  unfold State.tick; split <;> simp
@[simp] theorem State.tick_tornDown (t : Timer) : (s.tick t).tornDown = s.tornDown := by
  unfold State.tick; split <;> simp

@[simp] theorem State.stepIndex_cfg (x : RegIdx) : (s.stepIndex x).cfg = s.cfg := by
  unfold State.stepIndex; split <;> rfl
@[simp] theorem State.stepIndex_mem (x : RegIdx) : (s.stepIndex x).mem = s.mem := by
  unfold State.stepIndex; split <;> rfl
@[simp] theorem State.stepIndex_v (x : RegIdx) : (s.stepIndex x).v = s.v := by
  unfold State.stepIndex; split <;> rfl
@[simp] theorem State.stepIndex_index (x : RegIdx) : (s.stepIndex x).index =
    if s.cfg.bcdAndLoadIncrementI then s.index + BitVec.ofNat 16 (x.val + 1) else s.index := by
  unfold State.stepIndex; split <;> rfl
@[simp] theorem State.stepIndex_pc (x : RegIdx) : (s.stepIndex x).pc = s.pc := by
  unfold State.stepIndex; split <;> rfl
@[simp] theorem State.stepIndex_stack (x : RegIdx) : (s.stepIndex x).stack = s.stack := by
  unfold State.stepIndex; split <;> rfl
@[simp] theorem State.stepIndex_dt (x : RegIdx) : (s.stepIndex x).dt = s.dt := by
  unfold State.stepIndex; split <;> rfl
@[simp] theorem State.stepIndex_st (x : RegIdx) : (s.stepIndex x).st = s.st := by
  unfold State.stepIndex; split <;> rfl
@[simp] theorem State.stepIndex_disp (x : RegIdx) : (s.stepIndex x).disp = s.disp := by
  unfold State.stepIndex; split <;> rfl
@[simp] theorem State.stepIndex_run (x : RegIdx) : (s.stepIndex x).run = s.run := by
  unfold State.stepIndex; split <;> rfl
@[simp] theorem State.stepIndex_wait (x : RegIdx) : (s.stepIndex x).wait = s.wait := by
  unfold State.stepIndex; split <;> rfl
@[simp] theorem State.stepIndex_keypad (x : RegIdx) : (s.stepIndex x).keypad = s.keypad := by
  unfold State.stepIndex; split <;> rfl
@[simp] theorem State.stepIndex_result (x : RegIdx) : (s.stepIndex x).result = s.result := by
  unfold State.stepIndex; split <;> rfl
@[simp] theorem State.stepIndex_renders (x : RegIdx) : (s.stepIndex x).renders = s.renders := by
  unfold State.stepIndex; split <;> rfl
@[simp] theorem State.stepIndex_draws (x : RegIdx) : (s.stepIndex x).draws = s.draws := by
  unfold State.stepIndex; split <;> rfl
@[simp] theorem State.stepIndex_refusedLoads (x : RegIdx) : (s.stepIndex x).refusedLoads = s.refusedLoads := by
  unfold State.stepIndex; split <;> rfl
@[simp] theorem State.stepIndex_moves (x : RegIdx) : (s.stepIndex x).moves = s.moves := by
  unfold State.stepIndex; split <;> rfl
@[simp] theorem State.stepIndex_tornDown (x : RegIdx) : (s.stepIndex x).tornDown = s.tornDown := by
  unfold State.stepIndex; split <;> rfl

/-! ### Registers -/

/-- A register that was just written reads as written. -/
@[simp] theorem State.getV_setV_self (x : RegIdx) (b : Byte) : (s.setV x b).getV x = b := by
  simp [State.getV]

/-- Writing one register leaves every other as it was. -/
theorem State.getV_setV_other {x r : RegIdx} (b : Byte) (h : r ≠ x) : (s.setV x b).getV r = s.getV r := by
  have : x.val ≠ r.val := fun e => h (Fin.ext e.symm)
  simp [State.getV, this]

/-- Reading any register after a write. -/
theorem State.getV_setV (x r : RegIdx) (b : Byte) :
    (s.setV x b).getV r = if r = x then b else s.getV r := by
  split
  · next h => subst h; simp
  · next h => exact s.getV_setV_other b h

/-- Reading any register after the flag is written. -/
theorem State.getV_setFlag (r : RegIdx) (b : Bool) :
    (s.setFlag b).getV r = if r = regF then flagByte b else s.getV r := s.getV_setV regF r _

/-- A register reads the same in two states with equal register files. -/
theorem State.getV_congr {s t : State} (h : t.v = s.v) (r : RegIdx) : t.getV r = s.getV r := by
  simp [State.getV, h]

end Sys2Proof.Machine
end

