-- ==== Sys2Proof/Laws/Ops.lean ====
section
/-! SUPPORT. One spec lemma per shared operation: what the stack, the register file, the operand forms, the
flags and the end of a cycle do, and the frame of a composed update. -/

namespace Sys2Proof.Machine

/-! ### The end of a cycle -/

/-- An instruction that completes answers its final state with result `ok`. -/
theorem complete_eq (s : State) : complete s = .next s.finish := rfl

/-- An instruction that raises answers the state with the error as result. -/
theorem fail_eq (s : State) (e : CycleError) : fail s e = .next (s.raise e) := rfl

/-- With no bad address the instruction goes on. -/
@[simp] theorem failOr_none (s : State) (done : State → Host.Outcome State Fault Refusal) :
    failOr s none done = done s := rfl

/-- With a bad address the instruction raises a BoundsViolation and does not finish its updates. -/
@[simp] theorem failOr_some (s : State) (a : Nat) (done : State → Host.Outcome State Fault Refusal) :
    failOr s (some a) done = .next (s.raise (.boundsViolation a)) := rfl

/-- The end of a 00E0 or DXYN where the collaborator does not keep the call. -/
theorem renderEnd_of_returned {s : State} (h : s.moves.head? ≠ some .holdRender) :
    renderEnd s = .next s.render.finish := by
  unfold renderEnd
  split
  · next h' => exact absurd h' h
  · rfl

/-- The end of a 00E0 or DXYN where the collaborator keeps the call. -/
theorem renderEnd_of_held {s : State} (h : s.moves.head? = some .holdRender) :
    renderEnd s = .next (s.render.dropMove.block .render) := by simp [renderEnd, h]

/-- A BoundsViolation halts the core. -/
@[simp] theorem State.raise_bounds_run (s : State) (a : Nat) : (s.raise (.boundsViolation a)).run = .halted := rfl

/-- No other error changes RUN. -/
theorem State.raise_run_of_not_fatal (s : State) {e : CycleError} (h : e.fatal = false) :
    (s.raise e).run = s.run := by simp [h]

/-! ### Stack -/

/-- `Push` on a stack with room. -/
theorem State.push_of_room {s : State} (h : s.stack.length < 16) (w : Word) :
    s.push w = some { s with stack := w :: s.stack } := if_pos h

/-- `Push` on a full stack. -/
theorem State.push_of_full {s : State} (h : 16 ≤ s.stack.length) (w : Word) : s.push w = none :=
  if_neg (by unfold stackCapacity; omega)

/-- `Pop` of a live entry. -/
theorem State.pop_cons {s : State} {w : Word} {rest : List Word} (h : s.stack = w :: rest) :
    s.pop = some (w, { s with stack := rest }) := by simp [State.pop, h]

/-- `Pop` of the empty stack. -/
theorem State.pop_nil {s : State} (h : s.stack = []) : s.pop = none := by simp [State.pop, h]

/-! ### The register file -/

/-- Filling leaves a register below the filled range, or above it, and gives one inside it its byte. -/
theorem getElem_fillV (v : Vector Byte 16) (k : Nat) (bs : List Byte) (r : Nat) (hr : r < 16) :
    (fillV v k bs)[r] = if k ≤ r ∧ r < k + bs.length then bs.getD (r - k) 0#8 else v[r] := by
  induction bs generalizing v k with
  | nil => simp only [fillV, List.length_nil]; rw [if_neg (by omega)]
  | cons b bs ih =>
    simp only [fillV, ih, List.length_cons]
    by_cases hk : k = r
    · subst hk
      rw [if_neg (by omega), if_pos (by omega)]
      simp
    · by_cases h : k + 1 ≤ r ∧ r < k + 1 + bs.length
      · rw [if_pos h, if_pos (by omega)]
        obtain ⟨j, rfl⟩ : ∃ j, r = k + 1 + j := ⟨r - (k + 1), by omega⟩
        rw [show k + 1 + j - (k + 1) = j by omega, show k + 1 + j - k = j + 1 by omega, List.getD_cons_succ]
      · rw [if_neg h, if_neg (by omega)]
        simp [hk]

/-- Reading a register after the first registers were filled. -/
theorem State.getV_fill (s : State) (bs : List Byte) (r : RegIdx) :
    (s.fill bs).getV r = if r.val < bs.length then bs.getD r.val 0#8 else s.getV r := by
  have := getElem_fillV s.v 0 bs r.val r.isLt
  simpa [State.getV] using this

/-- FX55 stores x + 1 bytes. -/
@[simp] theorem State.length_firstRegs (s : State) (x : RegIdx) : (s.firstRegs x).length = x.val + 1 := by
  have := x.isLt
  simp [State.firstRegs]

/-- The byte FX55 stores at offset `k` is V[k]. -/
theorem State.getD_firstRegs (s : State) (x k : RegIdx) (h : k ≤ x) : (s.firstRegs x).getD k.val 0#8 = s.getV k := by
  have hk : k.val < x.val + 1 := Nat.lt_succ_of_le h
  simp [State.firstRegs, State.getV, List.getD_eq_getElem?_getD, hk]

@[simp] theorem length_digits (a : Byte) : (digits a).length = 3 := rfl

/-! ### The frame -/

theorem ChangesOnly.refl (ps : List Part) (s : State) : ChangesOnly ps s s := by
  intro p _
  cases p <;> rfl

/-- A frame composes: the parts of both updates. -/
theorem ChangesOnly.trans {ps : List Part} {s t u : State} (h : ChangesOnly ps s t) (h' : ChangesOnly ps t u) :
    ChangesOnly ps s u := by
  intro p hp
  have h := h p hp
  have h' := h' p hp
  cases p <;> simp_all [Agree]

/-- A larger list of parts is a weaker frame. -/
theorem ChangesOnly.mono {ps qs : List Part} {s t : State} (h : ChangesOnly ps s t) (hsub : ∀ p ∈ ps, p ∈ qs) :
    ChangesOnly qs s t := fun p hp => h p fun hm => hp (hsub p hm)

/-- A frame from its parts: every register, every byte of memory and every other field. -/
theorem ChangesOnly.of_fields {ps : List Part} {s t : State}
    (hv : ∀ r, .v r ∉ ps → t.getV r = s.getV r)
    (hmem : ∀ a, .mem a ∉ ps → Memory.get t.mem a = Memory.get s.mem a)
    (hrest : ∀ p, (∀ r, p ≠ .v r) → (∀ a, p ≠ .mem a) → p ∉ ps → Agree s t p) : ChangesOnly ps s t := by
  intro p hp
  cases p with
  | v r => exact hv r hp
  | mem a => exact hmem a hp
  | _ => exact hrest _ (by simp) (by simp) hp

theorem State.mem_bytesFromIndex (s : State) (count a : Nat) :
    Part.mem a ∈ s.bytesFromIndex count ↔ s.base ≤ a ∧ a < s.base + count := by
  simp only [State.bytesFromIndex, List.mem_map, List.mem_range, Part.mem.injEq]
  constructor
  · rintro ⟨k, hk, rfl⟩; omega
  · intro h; exact ⟨a - s.base, by omega, by omega⟩

theorem mem_regsUpTo (x r : RegIdx) : Part.v r ∈ regsUpTo x ↔ r ≤ x := by
  simp [regsUpTo, List.mem_filter, List.mem_finRange]

/-- A larger list of parts is a weaker claim of how an instruction ends in `Render`. -/
theorem EndsInRender.mono {ps qs : List Part} {s t : State} (h : EndsInRender ps s t) (hsub : ∀ p ∈ ps, p ∈ qs) :
    EndsInRender qs s t := by
  obtain ⟨h1, h2, h3⟩ := h
  refine ⟨h1, fun hm => ?_, fun rest hm => ?_⟩
  · obtain ⟨hr, hf⟩ := h2 hm
    exact ⟨hr, hf.mono fun p hp => by simp only [List.mem_cons] at hp ⊢; tauto⟩
  · obtain ⟨hw, hr, hf⟩ := h3 rest hm
    exact ⟨hw, hr, hf.mono fun p hp => by simp only [List.mem_cons] at hp ⊢; tauto⟩

/-- What `renderEnd` can do after an instruction has written the parts `ps` and no part of the host's side. -/
theorem renderEnd_spec {ps : List Part} {s u : State} (hf : ChangesOnly ps s u) (hr : u.renders = s.renders)
    (hm : u.moves = s.moves) :
    ∃ t, renderEnd u = .next t ∧ t.disp = u.disp ∧ t.v = u.v ∧ t.cfg = u.cfg ∧ EndsInRender ps s t := by
  by_cases hh : u.moves.head? = some .holdRender
  · refine ⟨_, renderEnd_of_held hh, rfl, rfl, rfl, ?_, fun hn => absurd (hm ▸ hh) hn, fun rest he => ?_⟩
    · simp [hr]
    · refine ⟨rfl, by simp [hm, he], ?_⟩
      refine (hf.mono (by simp +contextual)).trans fun p hp => ?_
      cases p <;> first | rfl | simp at hp
  · refine ⟨_, renderEnd_of_returned hh, rfl, rfl, rfl, ?_, fun _ => ⟨rfl, ?_⟩, fun rest he => ?_⟩
    · simp [hr]
    · refine (hf.mono (by simp +contextual)).trans fun p hp => ?_
      cases p <;> first | rfl | simp at hp
    · exact absurd (by simp [hm, he]) hh

/-- Whatever the collaborator does, the parts written are the instruction's, the reply, the snapshot, the wait and
the schedule. -/
theorem EndsInRender.frame {ps : List Part} {s t : State} (h : EndsInRender ps s t) :
    ChangesOnly (.result :: .renders :: .wait :: .moves :: ps) s t := by
  obtain ⟨-, h2, h3⟩ := h
  by_cases hh : s.moves.head? = some .holdRender
  · cases hm : s.moves with
    | nil => simp [hm] at hh
    | cons m rest =>
      obtain rfl : m = .holdRender := by simpa [hm] using hh
      exact (h3 rest hm).2.2.mono (by simp +contextual)
  · exact (h2 hh).2.mono (by simp +contextual)

/-! ### `Load` -/

/-- The regions are apart exactly when the rule says so. -/
theorem fontClear_iff (fb : Nat) (prog : List Byte) :
    fontClear fb prog.length = true ↔ fb + 80 ≤ 0x200 ∨ 0x200 + prog.length ≤ fb ∨ prog = [] := by
  simp [fontClear, fontSize, entryPoint]

/-- Nothing refuses a `Load` exactly when the host may make it. -/
theorem loadRefusal_none_iff (c : Straps) (font prog : List Byte) :
    loadRefusal c font prog = none ↔ loadAllowed c font prog := by
  unfold loadRefusal loadAllowed
  by_cases h1 : maxProgram < prog.length
  · rw [if_pos h1]
    unfold maxProgram at h1
    simp only [reduceCtorEq, false_iff]
    omega
  · rw [if_neg h1]
    by_cases h2 : c.legal
    · rw [if_neg (not_not.2 h2)]
      by_cases h3 : font.length ≠ fontSize ∨ fontClear c.fontBaseAddress prog.length = false
      · rw [if_pos h3]
        simp only [reduceCtorEq, false_iff]
        rintro ⟨-, hf, -, hc⟩
        rw [(fontClear_iff _ _).2 hc] at h3
        exact h3.elim (fun h => h hf) (fun h => by cases h)
      · rw [if_neg h3]
        simp only [not_or, not_not, Bool.not_eq_false, fontClear_iff] at h3
        exact ⟨fun _ => ⟨h2, h3.1, Nat.not_lt.1 h1, h3.2⟩, fun _ => rfl⟩
    · rw [if_pos h2]
      simp only [reduceCtorEq, false_iff]
      exact fun h => h2 h.1

/-- A `Load` the host may make is accepted. -/
theorem loadCore_of_allowed {s : State} {font prog : List Byte} (h : loadAllowed s.cfg font prog) :
    loadCore font prog s = .next (s.loaded font prog) := by
  rw [loadCore, (loadRefusal_none_iff ..).2 h]

/-- A `Load` with a ground for refusal is refused. -/
theorem loadCore_of_refusal {s : State} {font prog : List Byte} {why : LoadRefusal}
    (h : loadRefusal s.cfg font prog = some why) : loadCore font prog s = .next (s.loadRefused why) := by
  rw [loadCore, h]

/-- An unspecified memory is some sequence stored from address 0 on. -/
theorem unspecifiedMemory_eq_store (u : Unspecified) : ∃ bs, unspecifiedMemory u = (Memory.store [] 0 bs).1 := by
  unfold unspecifiedMemory
  exact ⟨_, rfl⟩

/-- An unspecified memory is in canonical form. -/
theorem unspecifiedMemory_wf (u : Unspecified) : Memory.wf (unspecifiedMemory u) := by
  obtain ⟨bs, h⟩ := unspecifiedMemory_eq_store u
  rw [h]
  exact Memory.wf_store Memory.wf_nil 0 bs

/-- Memory after a refused `Load` is in canonical form. -/
theorem State.loadRefused_mem_wf (s : State) (why : LoadRefusal) : Memory.wf (s.loadRefused why).mem :=
  unspecifiedMemory_wf _

/-- The display after a refused `Load` is in canonical form. -/
theorem State.loadRefused_disp_wf (s : State) (why : LoadRefusal) : Display.wf s.cfg (s.loadRefused why).disp := by
  simp only [State.loadRefused]
  refine ⟨List.pairwise_lt_range.filter _, fun k hk => ?_⟩
  rw [List.mem_filter, List.mem_range] at hk
  exact hk.1

/-- The stack after a refused `Load` is within its capacity. -/
theorem State.loadRefused_stack_le (s : State) (why : LoadRefusal) : (s.loadRefused why).stack.length ≤ 16 := by
  have := (Config.unspecified s.refusedLoads).depth.isLt
  simp only [State.loadRefused, List.length_map, List.length_range]
  omega

/-! ### The blitter's list of hits -/

/-- A hit toggles its cell. -/
theorem contains_hits (hits : List Nat) (cv : Canvas) (k : Nat) :
    (hits.foldl hitCell cv).1.contains k = xor (cv.1.contains k) (decide (hits.count k % 2 = 1)) := by
  induction hits generalizing cv with
  | nil => simp
  | cons j hits ih =>
    rw [List.foldl_cons, ih]
    simp only [hitCell, Display.contains_toggle, List.count_cons]
    by_cases h : k = j
    · subst h
      simp only [decide_true, Bool.xor_true, beq_self_eq_true, if_true]
      rcases Nat.mod_two_eq_zero_or_one (hits.count k) with h2 | h2
      · simp [h2, Nat.add_mod]
      · simp [h2, Nat.add_mod]
    · have h' : (j == k) = false := by simpa using Ne.symm h
      simp [h, h']

/-- The rows DXYN reads are the first `rowsRead`. -/
theorem State.target_row_some_iff (s : State) (y : RegIdx) (n : Nibble) {r : Nat} (hr : r < n.toNat) :
    target s.cfg.edgePolicy s.cfg.displayHeight (s.startRow y + r) ≠ none ↔ r < s.rowsRead y n := by
  unfold State.rowsRead target
  cases s.cfg.edgePolicy with
  | wrap => by_cases h : s.startRow y + r < s.cfg.displayHeight <;> simp [h, hr]
  | clip =>
    by_cases h : s.startRow y + r < s.cfg.displayHeight
    · simp only [h, if_true, ne_eq, reduceCtorEq, not_false_eq_true, true_iff]; omega
    · simp only [h, if_false, ne_eq, not_true_eq_false, false_iff]; omega

end Sys2Proof.Machine
end

