-- ==== Sys2Proof/Laws/PerInstr.lean ====
section
/-! SUPPORT. Laws made per instruction. RowBits: the word of an instruction carries the bits that its row of
spec/opcode_table.json fixes. -/

namespace Sys2Proof.Laws

/-- The bits a row fixes, each as the highest bit, the lowest bit and the value (the "fixed" entries of
spec/opcode_table.json). -/
def rowBits : Instr → List (Nat × Nat × Nat)
  | .cls => [(15, 0, 224)]
  | .ret => [(15, 0, 238)]
  | .sys _ => [(15, 12, 0)]
  | .jp _ => [(15, 12, 1)]
  | .call _ => [(15, 12, 2)]
  | .seImm _ _ => [(15, 12, 3)]
  | .sneImm _ _ => [(15, 12, 4)]
  | .seReg _ _ => [(3, 0, 0), (15, 12, 5)]
  | .ldImm _ _ => [(15, 12, 6)]
  | .addImm _ _ => [(15, 12, 7)]
  | .ldReg _ _ => [(3, 0, 0), (15, 12, 8)]
  | .orReg _ _ => [(3, 0, 1), (15, 12, 8)]
  | .andReg _ _ => [(3, 0, 2), (15, 12, 8)]
  | .xorReg _ _ => [(3, 0, 3), (15, 12, 8)]
  | .addReg _ _ => [(3, 0, 4), (15, 12, 8)]
  | .sub _ _ => [(3, 0, 5), (15, 12, 8)]
  | .shr _ _ => [(3, 0, 6), (15, 12, 8)]
  | .subn _ _ => [(3, 0, 7), (15, 12, 8)]
  | .shl _ _ => [(3, 0, 14), (15, 12, 8)]
  | .sneReg _ _ => [(3, 0, 0), (15, 12, 9)]
  | .ldI _ => [(15, 12, 10)]
  | .jpOff _ => [(15, 12, 11)]
  | .rnd _ _ => [(15, 12, 12)]
  | .drw _ _ _ => [(15, 12, 13)]
  | .skp _ => [(7, 0, 158), (15, 12, 14)]
  | .sknp _ => [(7, 0, 161), (15, 12, 14)]
  | .getDt _ => [(7, 0, 7), (15, 12, 15)]
  | .waitKey _ => [(7, 0, 10), (15, 12, 15)]
  | .setDt _ => [(7, 0, 21), (15, 12, 15)]
  | .setSt _ => [(7, 0, 24), (15, 12, 15)]
  | .addI _ => [(7, 0, 30), (15, 12, 15)]
  | .ldF _ => [(7, 0, 41), (15, 12, 15)]
  | .bcd _ => [(7, 0, 51), (15, 12, 15)]
  | .storeRegs _ => [(7, 0, 85), (15, 12, 15)]
  | .loadRegs _ => [(7, 0, 101), (15, 12, 15)]

/-- The number that bits `hi` to `lo` of a word are. -/
def bitsOf (w : Word) (hi lo : Nat) : Nat := w.toNat / 2 ^ lo % 2 ^ (hi - lo + 1)

/-- The word of `i` carries the bits its row fixes. -/
def RowBits.Statement (i : Instr) : Prop :=
  ∀ f ∈ rowBits i, bitsOf (encode i) f.1 f.2.1 = f.2.2

theorem RowBits.cls : RowBits.Statement (.cls) := by
  simp [RowBits.Statement, rowBits, bitsOf, encode]

theorem RowBits.ret : RowBits.Statement (.ret) := by
  simp [RowBits.Statement, rowBits, bitsOf, encode]

theorem RowBits.sys (nnn : Addr12) : RowBits.Statement (.sys nnn) := by
  have := nnn.isLt
  simp only [RowBits.Statement, rowBits, bitsOf, encode, wordNNN_toNat, List.mem_cons, List.not_mem_nil, or_false,
    forall_eq, BitVec.reduceToNat]
  omega

theorem RowBits.jp (nnn : Addr12) : RowBits.Statement (.jp nnn) := by
  have := nnn.isLt
  simp only [RowBits.Statement, rowBits, bitsOf, encode, wordNNN_toNat, List.mem_cons, List.not_mem_nil, or_false,
    forall_eq, BitVec.reduceToNat]
  omega

theorem RowBits.call (nnn : Addr12) : RowBits.Statement (.call nnn) := by
  have := nnn.isLt
  simp only [RowBits.Statement, rowBits, bitsOf, encode, wordNNN_toNat, List.mem_cons, List.not_mem_nil, or_false,
    forall_eq, BitVec.reduceToNat]
  omega

theorem RowBits.seImm (x : RegIdx) (nn : Byte) : RowBits.Statement (.seImm x nn) := by
  have := x.isLt
  have := nn.isLt
  simp only [RowBits.Statement, rowBits, bitsOf, encode, wordXNN_toNat, List.mem_cons, List.not_mem_nil, or_false,
    forall_eq, BitVec.reduceToNat]
  omega

theorem RowBits.sneImm (x : RegIdx) (nn : Byte) : RowBits.Statement (.sneImm x nn) := by
  have := x.isLt
  have := nn.isLt
  simp only [RowBits.Statement, rowBits, bitsOf, encode, wordXNN_toNat, List.mem_cons, List.not_mem_nil, or_false,
    forall_eq, BitVec.reduceToNat]
  omega

theorem RowBits.seReg (x : RegIdx) (y : RegIdx) : RowBits.Statement (.seReg x y) := by
  have := x.isLt
  have := y.isLt
  simp only [RowBits.Statement, rowBits, bitsOf, encode, wordXYN_toNat, List.mem_cons, List.not_mem_nil, or_false,
    forall_eq_or_imp, forall_eq, BitVec.reduceToNat]
  omega

theorem RowBits.ldImm (x : RegIdx) (nn : Byte) : RowBits.Statement (.ldImm x nn) := by
  have := x.isLt
  have := nn.isLt
  simp only [RowBits.Statement, rowBits, bitsOf, encode, wordXNN_toNat, List.mem_cons, List.not_mem_nil, or_false,
    forall_eq, BitVec.reduceToNat]
  omega

theorem RowBits.addImm (x : RegIdx) (nn : Byte) : RowBits.Statement (.addImm x nn) := by
  have := x.isLt
  have := nn.isLt
  simp only [RowBits.Statement, rowBits, bitsOf, encode, wordXNN_toNat, List.mem_cons, List.not_mem_nil, or_false,
    forall_eq, BitVec.reduceToNat]
  omega

theorem RowBits.ldReg (x : RegIdx) (y : RegIdx) : RowBits.Statement (.ldReg x y) := by
  have := x.isLt
  have := y.isLt
  simp only [RowBits.Statement, rowBits, bitsOf, encode, wordXYN_toNat, List.mem_cons, List.not_mem_nil, or_false,
    forall_eq_or_imp, forall_eq, BitVec.reduceToNat]
  omega

theorem RowBits.orReg (x : RegIdx) (y : RegIdx) : RowBits.Statement (.orReg x y) := by
  have := x.isLt
  have := y.isLt
  simp only [RowBits.Statement, rowBits, bitsOf, encode, wordXYN_toNat, List.mem_cons, List.not_mem_nil, or_false,
    forall_eq_or_imp, forall_eq, BitVec.reduceToNat]
  omega

theorem RowBits.andReg (x : RegIdx) (y : RegIdx) : RowBits.Statement (.andReg x y) := by
  have := x.isLt
  have := y.isLt
  simp only [RowBits.Statement, rowBits, bitsOf, encode, wordXYN_toNat, List.mem_cons, List.not_mem_nil, or_false,
    forall_eq_or_imp, forall_eq, BitVec.reduceToNat]
  omega

theorem RowBits.xorReg (x : RegIdx) (y : RegIdx) : RowBits.Statement (.xorReg x y) := by
  have := x.isLt
  have := y.isLt
  simp only [RowBits.Statement, rowBits, bitsOf, encode, wordXYN_toNat, List.mem_cons, List.not_mem_nil, or_false,
    forall_eq_or_imp, forall_eq, BitVec.reduceToNat]
  omega

theorem RowBits.addReg (x : RegIdx) (y : RegIdx) : RowBits.Statement (.addReg x y) := by
  have := x.isLt
  have := y.isLt
  simp only [RowBits.Statement, rowBits, bitsOf, encode, wordXYN_toNat, List.mem_cons, List.not_mem_nil, or_false,
    forall_eq_or_imp, forall_eq, BitVec.reduceToNat]
  omega

theorem RowBits.sub (x : RegIdx) (y : RegIdx) : RowBits.Statement (.sub x y) := by
  have := x.isLt
  have := y.isLt
  simp only [RowBits.Statement, rowBits, bitsOf, encode, wordXYN_toNat, List.mem_cons, List.not_mem_nil, or_false,
    forall_eq_or_imp, forall_eq, BitVec.reduceToNat]
  omega

theorem RowBits.shr (x : RegIdx) (y : RegIdx) : RowBits.Statement (.shr x y) := by
  have := x.isLt
  have := y.isLt
  simp only [RowBits.Statement, rowBits, bitsOf, encode, wordXYN_toNat, List.mem_cons, List.not_mem_nil, or_false,
    forall_eq_or_imp, forall_eq, BitVec.reduceToNat]
  omega

theorem RowBits.subn (x : RegIdx) (y : RegIdx) : RowBits.Statement (.subn x y) := by
  have := x.isLt
  have := y.isLt
  simp only [RowBits.Statement, rowBits, bitsOf, encode, wordXYN_toNat, List.mem_cons, List.not_mem_nil, or_false,
    forall_eq_or_imp, forall_eq, BitVec.reduceToNat]
  omega

theorem RowBits.shl (x : RegIdx) (y : RegIdx) : RowBits.Statement (.shl x y) := by
  have := x.isLt
  have := y.isLt
  simp only [RowBits.Statement, rowBits, bitsOf, encode, wordXYN_toNat, List.mem_cons, List.not_mem_nil, or_false,
    forall_eq_or_imp, forall_eq, BitVec.reduceToNat]
  omega

theorem RowBits.sneReg (x : RegIdx) (y : RegIdx) : RowBits.Statement (.sneReg x y) := by
  have := x.isLt
  have := y.isLt
  simp only [RowBits.Statement, rowBits, bitsOf, encode, wordXYN_toNat, List.mem_cons, List.not_mem_nil, or_false,
    forall_eq_or_imp, forall_eq, BitVec.reduceToNat]
  omega

theorem RowBits.ldI (nnn : Addr12) : RowBits.Statement (.ldI nnn) := by
  have := nnn.isLt
  simp only [RowBits.Statement, rowBits, bitsOf, encode, wordNNN_toNat, List.mem_cons, List.not_mem_nil, or_false,
    forall_eq, BitVec.reduceToNat]
  omega

theorem RowBits.jpOff (nnn : Addr12) : RowBits.Statement (.jpOff nnn) := by
  have := nnn.isLt
  simp only [RowBits.Statement, rowBits, bitsOf, encode, wordNNN_toNat, List.mem_cons, List.not_mem_nil, or_false,
    forall_eq, BitVec.reduceToNat]
  omega

theorem RowBits.rnd (x : RegIdx) (nn : Byte) : RowBits.Statement (.rnd x nn) := by
  have := x.isLt
  have := nn.isLt
  simp only [RowBits.Statement, rowBits, bitsOf, encode, wordXNN_toNat, List.mem_cons, List.not_mem_nil, or_false,
    forall_eq, BitVec.reduceToNat]
  omega

theorem RowBits.drw (x : RegIdx) (y : RegIdx) (n : Nibble) : RowBits.Statement (.drw x y n) := by
  have := x.isLt
  have := y.isLt
  have := n.isLt
  simp only [RowBits.Statement, rowBits, bitsOf, encode, wordXYN_toNat, List.mem_cons, List.not_mem_nil, or_false,
    forall_eq, BitVec.reduceToNat]
  omega

theorem RowBits.skp (x : RegIdx) : RowBits.Statement (.skp x) := by
  have := x.isLt
  simp only [RowBits.Statement, rowBits, bitsOf, encode, wordXNN_toNat, List.mem_cons, List.not_mem_nil, or_false,
    forall_eq_or_imp, forall_eq, BitVec.reduceToNat]
  omega

theorem RowBits.sknp (x : RegIdx) : RowBits.Statement (.sknp x) := by
  have := x.isLt
  simp only [RowBits.Statement, rowBits, bitsOf, encode, wordXNN_toNat, List.mem_cons, List.not_mem_nil, or_false,
    forall_eq_or_imp, forall_eq, BitVec.reduceToNat]
  omega

theorem RowBits.getDt (x : RegIdx) : RowBits.Statement (.getDt x) := by
  have := x.isLt
  simp only [RowBits.Statement, rowBits, bitsOf, encode, wordXNN_toNat, List.mem_cons, List.not_mem_nil, or_false,
    forall_eq_or_imp, forall_eq, BitVec.reduceToNat]
  omega

theorem RowBits.waitKey (x : RegIdx) : RowBits.Statement (.waitKey x) := by
  have := x.isLt
  simp only [RowBits.Statement, rowBits, bitsOf, encode, wordXNN_toNat, List.mem_cons, List.not_mem_nil, or_false,
    forall_eq_or_imp, forall_eq, BitVec.reduceToNat]
  omega

theorem RowBits.setDt (x : RegIdx) : RowBits.Statement (.setDt x) := by
  have := x.isLt
  simp only [RowBits.Statement, rowBits, bitsOf, encode, wordXNN_toNat, List.mem_cons, List.not_mem_nil, or_false,
    forall_eq_or_imp, forall_eq, BitVec.reduceToNat]
  omega

theorem RowBits.setSt (x : RegIdx) : RowBits.Statement (.setSt x) := by
  have := x.isLt
  simp only [RowBits.Statement, rowBits, bitsOf, encode, wordXNN_toNat, List.mem_cons, List.not_mem_nil, or_false,
    forall_eq_or_imp, forall_eq, BitVec.reduceToNat]
  omega

theorem RowBits.addI (x : RegIdx) : RowBits.Statement (.addI x) := by
  have := x.isLt
  simp only [RowBits.Statement, rowBits, bitsOf, encode, wordXNN_toNat, List.mem_cons, List.not_mem_nil, or_false,
    forall_eq_or_imp, forall_eq, BitVec.reduceToNat]
  omega

theorem RowBits.ldF (x : RegIdx) : RowBits.Statement (.ldF x) := by
  have := x.isLt
  simp only [RowBits.Statement, rowBits, bitsOf, encode, wordXNN_toNat, List.mem_cons, List.not_mem_nil, or_false,
    forall_eq_or_imp, forall_eq, BitVec.reduceToNat]
  omega

theorem RowBits.bcd (x : RegIdx) : RowBits.Statement (.bcd x) := by
  have := x.isLt
  simp only [RowBits.Statement, rowBits, bitsOf, encode, wordXNN_toNat, List.mem_cons, List.not_mem_nil, or_false,
    forall_eq_or_imp, forall_eq, BitVec.reduceToNat]
  omega

theorem RowBits.storeRegs (x : RegIdx) : RowBits.Statement (.storeRegs x) := by
  have := x.isLt
  simp only [RowBits.Statement, rowBits, bitsOf, encode, wordXNN_toNat, List.mem_cons, List.not_mem_nil, or_false,
    forall_eq_or_imp, forall_eq, BitVec.reduceToNat]
  omega

theorem RowBits.loadRegs (x : RegIdx) : RowBits.Statement (.loadRegs x) := by
  have := x.isLt
  simp only [RowBits.Statement, rowBits, bitsOf, encode, wordXNN_toNat, List.mem_cons, List.not_mem_nil, or_false,
    forall_eq_or_imp, forall_eq, BitVec.reduceToNat]
  omega

end Sys2Proof.Laws
end

