-- ==== Sys2Proof/Laws/Step.lean ====
section
/-! SUPPORT. What one step can do, said once: `step_cases`, from which every rule about all steps follows. -/

namespace Sys2Proof.Machine

/-- Everything a step that answers `t` can have been (40_cycle.md R65 to R70, 60_exceptions.md R134 to R144). -/
inductive StepCase (s t : State) : Prop where
  /-- A `Cycle` executed an instruction. -/
  | executed (i : Instr) (hi : s.executesNext i) (h : exec i s.atExecute = .next t)
  /-- A `Cycle` met an address above 4095 in fetch. -/
  | fetchFailed (a : Nat) (hc : s.cyclesNext) (hr : s.run = .running) (hp : 4095 ≤ s.pc.toNat)
      (ha : a = if s.pc.toNat = 4095 then 4096 else s.pc.toNat) (h : t = s.dropMove.raise (.boundsViolation a))
  /-- A `Cycle` fetched a word without an instruction. -/
  | unsupported (w : Word) (e : DecodeError) (hw : s.fetchesNext w) (he : decodeWord w = .error e)
      (h : t = s.atExecute.raise (.unsupportedOpcode w))
  /-- The executor is blocked and no agent moves. -/
  | idle (hw : s.wait ≠ none) (hm : s.moves = []) (h : t = s)
  | ticked (T : Timer) (hm : s.moves.head? = some (.tick T)) (h : t = s.dropMove.tick T)
  | keysChanged (d : BitVec 16) (hm : s.moves.head? = some (.keys d)) (h : t = { s.dropMove with keypad := d })
  | pressIgnored (k : Nibble) (hm : s.moves.head? = some (.press k)) (hw : s.wait = none ∨ s.wait = some .render)
      (h : t = s.dropMove)
  | delivered (x : RegIdx) (k : Nibble) (hm : s.moves.head? = some (.press k)) (hw : s.wait = some (.key x))
      (h : t = s.dropMove.deliver x k)
  | waitCancelled (x : RegIdx) (hm : s.moves.head? = some .cancel) (hw : s.wait = some (.key x))
      (h : t = s.dropMove.cancelWait)
  | renderReturned (hm : s.moves.head? = some .renderReturn) (hw : s.wait = some .render)
      (h : t = s.dropMove.returnRender)
  | loaded (font prog : List Byte) (hm : s.moves.head? = some (.load font prog)) (hw : s.wait = none)
      (hl : loadAllowed s.cfg font prog) (h : t = s.dropMove.loaded font prog)
  | loadRefused (font prog : List Byte) (why : LoadRefusal) (hm : s.moves.head? = some (.load font prog))
      (hw : s.wait = none) (hl : loadRefusal s.cfg font prog = some why) (h : t = s.dropMove.loadRefused why)
  | tornDown (hm : s.moves.head? = some .teardown) (hw : s.wait = none)
      (h : t = { s.dropMove with tornDown := true })

@[simp] theorem State.atExecute_eq (s : State) : s.dropMove.advance = s.atExecute := rfl

/-- With no move scheduled there is none to take off. -/
theorem State.dropMove_of_nil {s : State} (h : s.moves = []) : s.dropMove = s := by
  cases s
  simp_all [State.dropMove]

/-- A fetch gives the two bytes at PC, or the first address above 4095. -/
theorem State.fetch_eq (s : State) :
    s.fetch = if 4095 ≤ s.pc.toNat then .error (if s.pc.toNat = 4095 then 4096 else s.pc.toNat)
      else .ok (Memory.get s.mem s.pc.toNat, Memory.get s.mem (s.pc.toNat + 1)) := by
  unfold State.fetch lastAddr
  by_cases h1 : 4095 < s.pc.toNat
  · rw [if_pos h1, if_pos (by omega), if_neg (by omega)]
  · rw [if_neg h1]
    by_cases h2 : 4095 < s.pc.toNat + 1
    · have h3 : s.pc.toNat = 4095 := by omega
      simp [h3]
    · rw [if_neg h2, if_neg (by omega)]

/-- Two fetched bytes run the instruction they decode to, or report their word. -/
theorem runBytes_eq (hi lo : Byte) (s : State) :
    runBytes hi lo s =
      match decodeWord (wordOfBytes hi lo) with
      | .ok i => exec i s
      | .error _ => .next (s.raise (.unsupportedOpcode (wordOfBytes hi lo))) := by
  rw [runBytes, decode_two]
  cases decodeWord (wordOfBytes hi lo) <;> rfl

/-- The cases of a `Cycle` that answers a next state. -/
theorem cycle_cases {s t : State} (hc : s.cyclesNext) (h : cycle s.dropMove = .next t) : StepCase s t := by
  unfold cycle at h
  cases hr : s.run with
  | halted => simp [hr] at h
  | running =>
    simp only [State.dropMove_run, hr, State.fetch_eq, State.dropMove_pc, State.dropMove_mem] at h
    by_cases hp : 4095 ≤ s.pc.toNat
    · simp only [hp, if_true, fail_eq, Host.Outcome.next.injEq] at h
      exact .fetchFailed _ hc hr hp rfl h.symm
    · simp only [hp, if_false, runBytes_eq, State.atExecute_eq] at h
      have hw : s.fetchesNext (wordOfBytes (Memory.get s.mem s.pc.toNat) (Memory.get s.mem (s.pc.toNat + 1))) :=
        ⟨hc, hr, by omega, wordOfBytes_toNat _ _⟩
      cases hd : decodeWord (wordOfBytes (Memory.get s.mem s.pc.toNat) (Memory.get s.mem (s.pc.toNat + 1))) with
      | ok i =>
        simp only [hd] at h
        exact .executed i ⟨_, hw, hd⟩ h
      | error e =>
        simp only [hd, Host.Outcome.next.injEq] at h
        exact .unsupported _ e hw hd h.symm

/-- What one step can do. -/
theorem step_cases {s t : State} (h : step s = .next t) : s.tornDown = false ∧ StepCase s t := by
  unfold step at h
  cases htd : s.tornDown with
  | true => simp [htd] at h
  | false =>
    refine ⟨rfl, ?_⟩
    simp only [htd, Bool.false_eq_true, if_false] at h
    cases hm : s.moves with
    | nil =>
      simp only [hm, defaultMove] at h
      cases hw : s.wait with
      | none =>
        simp only [hw] at h
        rw [← State.dropMove_of_nil hm] at h
        exact cycle_cases ⟨htd, hw, .inl hm⟩ h
      | some x =>
        simp only [hw, Host.Outcome.next.injEq] at h
        exact .idle (by simp [hw]) hm h.symm
    | cons m rest =>
      have hh : s.moves.head? = some m := by simp [hm]
      simp only [hm, nextMove] at h
      cases hw : s.wait with
      | none =>
        simp only [hw] at h
        cases m with
        | cycle => exact cycle_cases ⟨htd, hw, .inr hh⟩ h
        | tick T => exact .ticked T hh (by simpa [moveFree] using h.symm)
        | keys d => exact .keysChanged d hh (by simpa [moveFree] using h.symm)
        | press k => exact .pressIgnored k hh (.inl hw) (by simpa [moveFree] using h.symm)
        | load font prog =>
          simp only [moveFree] at h
          cases hl : loadRefusal s.cfg font prog with
          | none =>
            have hl := (loadRefusal_none_iff ..).1 hl
            rw [loadCore_of_allowed (by simpa using hl)] at h
            exact .loaded font prog hh hw hl (by simpa using h.symm)
          | some why =>
            rw [loadCore_of_refusal (by simpa using hl)] at h
            exact .loadRefused font prog why hh hw hl (by simpa using h.symm)
        | teardown => exact .tornDown hh hw (by simpa [moveFree] using h.symm)
        | cancel | holdRender | renderReturn => simp [moveFree] at h
      | some w =>
        cases w with
        | key x =>
          simp only [hw] at h
          cases m with
          | tick T => exact .ticked T hh (by simpa [moveInKeyWait] using h.symm)
          | keys d => exact .keysChanged d hh (by simpa [moveInKeyWait] using h.symm)
          | press k => exact .delivered x k hh hw (by simpa [moveInKeyWait] using h.symm)
          | cancel => exact .waitCancelled x hh hw (by simpa [moveInKeyWait] using h.symm)
          | cycle | load _ _ | teardown | holdRender | renderReturn => simp [moveInKeyWait] at h
        | render =>
          simp only [hw] at h
          cases m with
          | tick T => exact .ticked T hh (by simpa [moveInRender] using h.symm)
          | keys d => exact .keysChanged d hh (by simpa [moveInRender] using h.symm)
          | press k => exact .pressIgnored k hh (.inr hw) (by simpa [moveInRender] using h.symm)
          | renderReturn => exact .renderReturned hh hw (by simpa [moveInRender] using h.symm)
          | cycle | load _ _ | teardown | holdRender | cancel => simp [moveInRender] at h

end Sys2Proof.Machine
end

