-- ==== Sys2Proof/Tests/Slice0.lean ====
section
/-! SUPPORT. The model's own tests. Expected values come from spec/95_test_vectors.md, whose vector each test
names, or from the encodings of spec/30_encoding.md. -/

namespace Sys2Proof.Tests

open Sys2Proof.Machine

/-! ### Well-formedness: an ill-formed term for each check -/

theorem test_sys_of_cls_word_is_ill_formed : (Instr.sys 0x0E0#12).wellFormed = false := by decide
theorem test_sys_of_ret_word_is_ill_formed : (Instr.sys 0x0EE#12).wellFormed = false := by decide
theorem test_sys_of_other_word_is_well_formed : (Instr.sys 0x0E1#12).wellFormed = true := by decide

/-! ### Decoding: a word of each row, written out from its pattern (30_encoding.md R55) -/

theorem test_decode_cls : decodeWord 0b0000_0000_1110_0000#16 = .ok .cls := by decide
theorem test_decode_ret : decodeWord 0b0000_0000_1110_1110#16 = .ok .ret := by decide
theorem test_decode_sys : decodeWord 0b0000_0001_0010_0011#16 = .ok (.sys 0x123#12) := by decide
theorem test_decode_jp : decodeWord 0b0001_1010_1011_1100#16 = .ok (.jp 0xABC#12) := by decide
theorem test_decode_call : decodeWord 0b0010_0010_0010_1010#16 = .ok (.call 0x22A#12) := by decide
theorem test_decode_seImm : decodeWord 0b0011_0001_0100_0010#16 = .ok (.seImm 1 0x42#8) := by decide
theorem test_decode_sneImm : decodeWord 0b0100_0001_0100_0011#16 = .ok (.sneImm 1 0x43#8) := by decide
theorem test_decode_seReg : decodeWord 0b0101_0011_0100_0000#16 = .ok (.seReg 3 4) := by decide
theorem test_decode_ldImm : decodeWord 0b0110_1010_0101_0101#16 = .ok (.ldImm 10 0x55#8) := by decide
theorem test_decode_addImm : decodeWord 0b0111_0110_1111_1111#16 = .ok (.addImm 6 0xFF#8) := by decide
theorem test_decode_ldReg : decodeWord 0b1000_0001_0010_0000#16 = .ok (.ldReg 1 2) := by decide
theorem test_decode_orReg : decodeWord 0b1000_0001_0010_0001#16 = .ok (.orReg 1 2) := by decide
theorem test_decode_andReg : decodeWord 0b1000_0001_0010_0010#16 = .ok (.andReg 1 2) := by decide
theorem test_decode_xorReg : decodeWord 0b1000_0001_0010_0011#16 = .ok (.xorReg 1 2) := by decide
theorem test_decode_addReg : decodeWord 0b1000_0001_0010_0100#16 = .ok (.addReg 1 2) := by decide
theorem test_decode_sub : decodeWord 0b1000_0001_0010_0101#16 = .ok (.sub 1 2) := by decide
theorem test_decode_shr : decodeWord 0b1000_0001_0010_0110#16 = .ok (.shr 1 2) := by decide
theorem test_decode_subn : decodeWord 0b1000_0001_0010_0111#16 = .ok (.subn 1 2) := by decide
theorem test_decode_shl : decodeWord 0b1000_0001_0010_1110#16 = .ok (.shl 1 2) := by decide
theorem test_decode_sneReg : decodeWord 0b1001_0011_0100_0000#16 = .ok (.sneReg 3 4) := by decide
theorem test_decode_ldI : decodeWord 0b1010_0011_0000_0001#16 = .ok (.ldI 0x301#12) := by decide
theorem test_decode_jpOff : decodeWord 0b1011_0011_0000_0001#16 = .ok (.jpOff 0x301#12) := by decide
theorem test_decode_rnd : decodeWord 0b1100_0011_0000_1111#16 = .ok (.rnd 3 0x0F#8) := by decide
theorem test_decode_drw : decodeWord 0b1101_0001_0010_0101#16 = .ok (.drw 1 2 5#4) := by decide
theorem test_decode_skp : decodeWord 0b1110_0101_1001_1110#16 = .ok (.skp 5) := by decide
theorem test_decode_sknp : decodeWord 0b1110_0101_1010_0001#16 = .ok (.sknp 5) := by decide
theorem test_decode_getDt : decodeWord 0b1111_0100_0000_0111#16 = .ok (.getDt 4) := by decide
theorem test_decode_waitKey : decodeWord 0b1111_0011_0000_1010#16 = .ok (.waitKey 3) := by decide
theorem test_decode_setDt : decodeWord 0b1111_1001_0001_0101#16 = .ok (.setDt 9) := by decide
theorem test_decode_setSt : decodeWord 0b1111_1001_0001_1000#16 = .ok (.setSt 9) := by decide
theorem test_decode_addI : decodeWord 0b1111_0010_0001_1110#16 = .ok (.addI 2) := by decide
theorem test_decode_ldF : decodeWord 0b1111_1100_0010_1001#16 = .ok (.ldF 12) := by decide
theorem test_decode_bcd : decodeWord 0b1111_1100_0011_0011#16 = .ok (.bcd 12) := by decide
theorem test_decode_storeRegs : decodeWord 0b1111_0010_0101_0101#16 = .ok (.storeRegs 2) := by decide
theorem test_decode_loadRegs : decodeWord 0b1111_0010_0110_0101#16 = .ok (.loadRegs 2) := by decide

/-- The first byte is the high one (30_encoding.md R50), and bytes after the instruction are left. -/
theorem test_decode_bytes : decode [0x76#8, 0xFF#8, 0x12#8] = .ok (.addImm 6 0xFF#8, [0x12#8]) := by decide
theorem test_decode_one_byte : decode [0x12#8] = .error .truncated := by decide
/-- T8 to T12. -/
theorem test_unsupported_words :
    [0x8128#16, 0x912F#16, 0xE100#16, 0xF175#16, 0xF100#16].map decodeWord =
      [0x8128#16, 0x912F#16, 0xE100#16, 0xF175#16, 0xF100#16].map fun w => .error (.unsupported w) := by decide
/-- The table numbers the word as 30_encoding.md does: bit 15 is the top of the first byte. -/
theorem test_decodeTableWord : decodeTableWord 16 0x22A3 = some (.call 0x2A3#12) := by decide

/-! ### One step from small states

`clipped` and `wrapped` are two configurations; `start` is the state after a `Load` with the straps of the
first, as the vectors assume; `after s w f` runs the word `w` from `s` and asks `f` of the next state. -/

def clipped : Straps where
  instructionsPerSecond := 700
  shiftCopiesVy := false
  jumpOffsetUsesVx := false
  bcdAndLoadIncrementI := false
  edgePolicy := .clip
  displayWidth := 64
  displayHeight := 32
  fontBaseAddress := 0x50
  addISetsVf := false

def wrapped : Straps :=
  { clipped with
    shiftCopiesVy := true, jumpOffsetUsesVx := true, bcdAndLoadIncrementI := true, edgePolicy := .wrap
    addISetsVf := true }

def startWith (c : Straps) : State := { State.construct c with pc := 0x200#16, run := .running }

def start : State := startWith clipped

def after (s : State) (w : Nat) (f : State → Bool) : Bool :=
  match step (s.withFetchWord 16 w) with
  | .next t => f t
  | _ => false

/-- S1, G1. -/
theorem test_cls : after (({ start with disp := [195] }).setV regF 1#8) 0x00E0
    (fun t => t.disp == [] && t.getV regF == 1#8 && t.renders == [[]] && t.pc == 0x202#16) = true := by decide
/-- 44_display.md R111: a kept `Render` has the snapshot and blocks, and the `Cycle` has not returned. -/
theorem test_cls_held : after { start with disp := [195], moves := [.holdRender] } 0x00E0
    (fun t => t.disp == [] && t.renders == [[]] && t.wait == some .render && t.result == none && t.moves == []) =
      true := by decide
/-- F5. -/
theorem test_ret : after { start with stack := [0x202#16], pc := 0x22A#16 } 0x00EE
    (fun t => t.pc == 0x202#16 && t.stack == []) = true := by decide
/-- F6. -/
theorem test_ret_underflow : after start 0x00EE
    (fun t => t.result == some (.error .stackUnderflow) && t.pc == 0x202#16 && t.run == .running) = true := by decide
/-- T1, T14. -/
theorem test_sys : after start 0x0FF0 (fun t => t.pc == 0x202#16 && t.result == some .ok) = true := by decide
/-- F2. -/
theorem test_jp : after start 0x1FFF (fun t => t.pc == 0xFFF#16) = true := by decide
/-- S3, F3. -/
theorem test_call : after start 0x222A (fun t => t.pc == 0x22A#16 && t.stack == [0x202#16]) = true := by decide
/-- F4. -/
theorem test_call_overflow : after { start with stack := List.replicate 16 7#16 } 0x2300
    (fun t => t.result == some (.error .stackOverflow) && t.pc == 0x202#16 && t.stack == List.replicate 16 7#16 &&
      t.run == .running) = true := by decide
/-- F8, F9. -/
theorem test_seImm : after (start.setV 1 0x42#8) 0x3142 (fun t => t.pc == 0x204#16) = true := by decide
theorem test_seImm_not : after (start.setV 1 0x42#8) 0x3143 (fun t => t.pc == 0x202#16) = true := by decide
/-- F10, F11. -/
theorem test_sneImm : after (start.setV 1 0x42#8) 0x4143 (fun t => t.pc == 0x204#16) = true := by decide
theorem test_sneImm_not : after (start.setV 1 0x42#8) 0x4142 (fun t => t.pc == 0x202#16) = true := by decide
/-- F12, F13. -/
theorem test_seReg : after ((start.setV 3 7#8).setV 4 7#8) 0x5340 (fun t => t.pc == 0x204#16) = true := by decide
theorem test_seReg_not : after ((start.setV 3 7#8).setV 4 8#8) 0x5340 (fun t => t.pc == 0x202#16) = true := by decide
/-- F15, F16. -/
theorem test_sneReg : after ((start.setV 3 7#8).setV 4 8#8) 0x9340 (fun t => t.pc == 0x204#16) = true := by decide
theorem test_sneReg_not : after ((start.setV 3 7#8).setV 4 7#8) 0x9340 (fun t => t.pc == 0x202#16) = true := by decide
/-- F19. -/
theorem test_jpOff : after (start.setV 0 2#8) 0xBFFF (fun t => t.pc == 0x1001#16) = true := by decide
/-- F18. -/
theorem test_jpOff_vx : after (((startWith wrapped).setV 0 4#8).setV 3 0x10#8) 0xB300
    (fun t => t.pc == 0x310#16) = true := by decide
/-- A1. -/
theorem test_ldImm : after start 0x6A55 (fun t => t.getV 10 == 0x55#8 && t.pc == 0x202#16) = true := by decide
/-- S2, A3. -/
theorem test_addImm : after (start.setV 6 43#8) 0x76FF (fun t => t.getV 6 == 42#8 && t.getV regF == 0#8) = true := by
  decide
/-- A5. -/
theorem test_ldReg : after (start.setV 2 9#8) 0x8120 (fun t => t.getV 1 == 9#8) = true := by decide
/-- A6. -/
theorem test_orReg : after (((start.setV 1 0xF0#8).setV 2 0x0F#8).setV regF 1#8) 0x8121
    (fun t => t.getV 1 == 0xFF#8 && t.getV regF == 1#8) = true := by decide
/-- A7. -/
theorem test_andReg : after (((start.setV 1 0xF0#8).setV 2 0x3C#8).setV regF 1#8) 0x8122
    (fun t => t.getV 1 == 0x30#8 && t.getV regF == 1#8) = true := by decide
/-- A8. -/
theorem test_xorReg : after (((start.setV 1 0xF0#8).setV 2 0x3C#8).setV regF 1#8) 0x8123
    (fun t => t.getV 1 == 0xCC#8 && t.getV regF == 1#8) = true := by decide
/-- A10. -/
theorem test_addReg : after ((start.setV 1 200#8).setV 2 100#8) 0x8124
    (fun t => t.getV 1 == 44#8 && t.getV regF == 1#8) = true := by decide
/-- A15: the carry stands. -/
theorem test_addReg_vf : after ((start.setV regF 200#8).setV 3 100#8) 0x8F34
    (fun t => t.getV regF == 1#8 && t.getV 3 == 100#8) = true := by decide
/-- A19. -/
theorem test_sub : after ((start.setV 1 5#8).setV 2 10#8) 0x8125
    (fun t => t.getV 1 == 251#8 && t.getV regF == 0#8) = true := by decide
/-- A22: the difference stands. -/
theorem test_sub_vf : after ((start.setV regF 10#8).setV 3 3#8) 0x8F35 (fun t => t.getV regF == 7#8) = true := by decide
/-- A25. -/
theorem test_shr : after ((start.setV 1 5#8).setV 2 10#8) 0x8126
    (fun t => t.getV 1 == 2#8 && t.getV regF == 1#8 && t.getV 2 == 10#8) = true := by decide
/-- A26. -/
theorem test_shr_vy : after (((startWith wrapped).setV 1 5#8).setV 2 10#8) 0x8126
    (fun t => t.getV 1 == 5#8 && t.getV regF == 0#8 && t.getV 2 == 10#8) = true := by decide
/-- A32. -/
theorem test_subn : after ((start.setV 1 10#8).setV 2 5#8) 0x8127
    (fun t => t.getV 1 == 251#8 && t.getV regF == 0#8) = true := by decide
/-- A33. -/
theorem test_subn_equal : after ((start.setV 1 7#8).setV 2 7#8) 0x8127
    (fun t => t.getV 1 == 0#8 && t.getV regF == 1#8) = true := by decide
/-- A35. -/
theorem test_shl : after (start.setV 1 0x81#8) 0x812E (fun t => t.getV 1 == 0x02#8 && t.getV regF == 1#8) = true := by
  decide
/-- A40: the old VF is the operand. -/
theorem test_shl_vf : after (((startWith wrapped).setV 1 5#8).setV regF 0xC0#8) 0x81FE
    (fun t => t.getV 1 == 0x80#8 && t.getV regF == 1#8) = true := by decide
/-- A41: the answer is under the mask, whatever it is. -/
theorem test_rnd : after (start.setV 3 9#8) 0xC30F (fun t => t.draws == 1 && t.pc == 0x202#16) = true := by decide
/-- M1. -/
theorem test_ldI : after start 0xA300 (fun t => t.index == 0x300#16) = true := by decide
/-- M3. -/
theorem test_addI : after ({ start with index := 0xFFF#16 }.setV 2 1#8) 0xF21E
    (fun t => t.index == 0x1000#16 && t.getV regF == 0#8) = true := by decide
/-- M6. -/
theorem test_addI_wraps : after ({ startWith wrapped with index := 0xFFFF#16 }.setV 2 1#8) 0xF21E
    (fun t => t.index == 0#16 && t.getV regF == 1#8) = true := by decide
/-- M7. -/
theorem test_ldF : after (start.setV 0 0xA#8) 0xF029 (fun t => t.index == 0x082#16) = true := by decide
/-- M9: no mask. -/
theorem test_ldF_high : after (start.setV 0 0xFF#8) 0xF029 (fun t => t.index == 0x54B#16) = true := by decide
/-- M10. -/
theorem test_bcd : after ({ startWith wrapped with index := 0x300#16 }.setV 0 123#8) 0xF033
    (fun t => [0x300, 0x301, 0x302].map (Memory.get t.mem) == [1#8, 2#8, 3#8] && t.index == 0x300#16) = true := by
  decide
/-- M15. -/
theorem test_bcd_bounds : after ({ start with index := 0xFFE#16 }.setV 0 123#8) 0xF033
    (fun t => [0xFFE, 0xFFF].map (Memory.get t.mem) == [1#8, 2#8] && t.run == .halted && t.index == 0xFFE#16 &&
      t.result == some (.error (.boundsViolation 0x1000)) && t.pc == 0x202#16) = true := by decide
/-- M18. -/
theorem test_storeRegs : after
    ((({ startWith wrapped with index := 0x400#16 }.setV 0 1#8).setV 1 2#8).setV 2 3#8) 0xF255
    (fun t => [0x400, 0x401, 0x402, 0x403].map (Memory.get t.mem) == [1#8, 2#8, 3#8, 0#8] &&
      t.index == 0x403#16) = true := by decide
/-- M21. -/
theorem test_storeRegs_bounds : after
    ((({ startWith wrapped with index := 0xFFE#16 }.setV 0 1#8).setV 1 2#8).setV 2 3#8) 0xF255
    (fun t => [0xFFE, 0xFFF].map (Memory.get t.mem) == [1#8, 2#8] && t.index == 0xFFE#16 && t.run == .halted &&
      t.result == some (.error (.boundsViolation 0x1000))) = true := by decide
/-- M22. -/
theorem test_loadRegs : after
    ({ start with index := 0x300#16, mem := [(0x300, 1#8), (0x301, 2#8), (0x302, 3#8)] }.setV 3 9#8) 0xF265
    (fun t => [0, 1, 2, 3].map t.getV == [1#8, 2#8, 3#8, 9#8] && t.index == 0x300#16) = true := by decide
/-- M24. -/
theorem test_loadRegs_bounds : after
    ({ start with index := 0xFFF#16, mem := [(0xFFF, 0x77#8)] }.setV 1 5#8) 0xF165
    (fun t => t.getV 0 == 0x77#8 && t.getV 1 == 5#8 && t.run == .halted &&
      t.result == some (.error (.boundsViolation 0x1000))) = true := by decide
/-- G2: clip. -/
theorem test_drw : after ({ start with index := 0x300#16, mem := [(0x300, 0xC0#8)] }.setV 1 63#8) 0xD121
    (fun t => t.disp == [63] && t.getV regF == 0#8 && t.renders == [[63]]) = true := by decide
/-- G15 drawn where G3 wraps: an old cell goes off and the flag stays. -/
theorem test_drw_wraps : after
    ({ startWith wrapped with index := 0x300#16, mem := [(0x300, 0xC0#8)], disp := [63] }.setV 1 63#8) 0xD121
    (fun t => t.disp == [0] && t.getV regF == 1#8) = true := by decide
/-- K1. -/
theorem test_skp : after ({ start with keypad := 0x0400#16 }.setV 5 0xA#8) 0xE59E
    (fun t => t.pc == 0x204#16) = true := by decide
/-- K5. -/
theorem test_skp_bounds : after (start.setV 5 16#8) 0xE59E
    (fun t => t.result == some (.error (.boundsViolation 16)) && t.pc == 0x202#16 && t.run == .halted) = true := by
  decide
/-- K3. -/
theorem test_sknp : after (start.setV 5 0xA#8) 0xE5A1 (fun t => t.pc == 0x204#16) = true := by decide
/-- K4. -/
theorem test_sknp_not : after ({ start with keypad := 0x0400#16 }.setV 5 0xA#8) 0xE5A1
    (fun t => t.pc == 0x202#16) = true := by decide
/-- K7. -/
theorem test_waitKey : after { start with moves := [.press 7#4] } 0xF30A
    (fun t => t.getV 3 == 7#8 && t.pc == 0x202#16 && t.wait == none) = true := by decide
/-- K8. -/
theorem test_waitKey_cancelled : after ({ start with moves := [.cancel] }.setV 3 9#8) 0xF30A
    (fun t => t.result == some (.error .cancelled) && t.getV 3 == 9#8 && t.pc == 0x202#16 && t.run == .running) =
      true := by decide
/-- K10, K16. -/
theorem test_getDt : after { start with dt := 0x2C#8 } 0xFF07
    (fun t => t.getV regF == 0x2C#8 && t.dt == 0x2C#8) = true := by decide
/-- K11. -/
theorem test_setDt : after (start.setV 0 5#8) 0xF015 (fun t => t.dt == 5#8 && t.st == 0#8) = true := by decide
/-- K13. -/
theorem test_setSt : after (start.setV 0 2#8) 0xF018 (fun t => t.st == 2#8 && t.soundActive && t.dt == 0#8) = true := by
  decide
/-- T3: the last instruction of memory leaves PC at 4096. -/
theorem test_fetch_at_4094 : after { start with pc := 0xFFE#16 } 0x6107
    (fun t => t.getV 1 == 7#8 && t.pc == 0x1000#16 && t.run == .running) = true := by decide

/-- Whether the next step of `s` answers a state with `f`. -/
def nextStep (s : State) (f : State → Bool) : Bool :=
  match step s with
  | .next t => f t
  | _ => false

/-- 60_exceptions.md R143: the tick goes on while the executor is blocked in `Render`. -/
theorem test_tick_in_render : nextStep { start with dt := 3#8, wait := some .render, moves := [.tick .delay] }
    (fun t => t.dt == 2#8 && t.wait == some .render) = true := by decide
/-- 44_display.md R111: the `Cycle` returns when the collaborator does. -/
theorem test_render_returns : nextStep { start with wait := some .render, moves := [.renderReturn] }
    (fun t => t.wait == none && t.result == some .ok && t.pc == 0x200#16) = true := by decide
/-- 60_exceptions.md R127: RUN is halted after a refused `Load`. -/
theorem test_refused_load_halts : nextStep { start with moves := [.load [] []] }
    (fun t => t.run == .halted && t.result == some (.loadRefused .fontRefused)) = true := by decide

/-- The step from reset with a row's word placed answers a next state. -/
def runsFromReset (w : Nat) : Bool :=
  match step (State.reset.withFetchWord 16 w) with
  | .next _ => true
  | _ => false

/-- One word of every row steps to a next state as the first instruction after reset. -/
theorem test_rows_0_to_6_step_from_reset :
    [0x00E0, 0x00EE, 0x0123, 0x1ABC, 0x222A, 0x3142, 0x4143, 0x5340, 0x6A55].all runsFromReset = true := by decide
theorem test_rows_7_to_8_step_from_reset :
    [0x76FF, 0x8120, 0x8121, 0x8122, 0x8123, 0x8124, 0x8125, 0x8126, 0x8127, 0x812E].all runsFromReset = true := by
  decide
theorem test_rows_9_to_E_step_from_reset :
    [0x9340, 0xA301, 0xB301, 0xC30F, 0xD125, 0xE59E, 0xE5A1].all runsFromReset = true := by decide
theorem test_rows_F_step_from_reset :
    [0xF407, 0xF30A, 0xF915, 0xF918, 0xF21E, 0xFC29, 0xFC33, 0xF255, 0xF265].all runsFromReset = true := by decide

/-! ### Witnesses: for every statement with hypotheses, states and operands that meet them, at the boundaries
of their clauses -/

theorem witness_DecodeInvertsEncode :
    (Instr.sys 0x0DF#12).wellFormed = true ∧ (Instr.drw 15 15 15#4).wellFormed = true := by decide

theorem witness_DecodedWordIsItsEncoding :
    decodeWord 0x00EF#16 = .ok (.sys 0x0EF#12) ∧ decodeWord 0xFF65#16 = .ok (.loadRegs 15) := by decide

/-- PC = 4094 is the last fetch. -/
theorem witness_StepRunsDecodedInstruction :
    { start with pc := 4094#16, mem := [(4094, 0x61#8), (4095, 7#8)] }.executesNext (.ldImm 1 7#8) :=
  ⟨0x6107#16, ⟨⟨rfl, rfl, .inl rfl⟩, rfl, by decide, by decide⟩, by decide⟩

/-- PC = 4095, 4096 and 65535; a scheduled `Cycle` and the default one (T4, T5, T6). -/
theorem witness_FetchAboveMemoryHalts :
    (∀ p, { start with pc := p }.cyclesNext ∧ { start with pc := p }.run = .running) ∧
      4095 ≤ (4095#16).toNat ∧ 4095 ≤ (4096#16).toNat ∧ 4095 ≤ (65535#16).toNat ∧
      { start with moves := [.cycle] }.cyclesNext :=
  ⟨fun _ => ⟨⟨rfl, rfl, .inl rfl⟩, rfl⟩, by decide, by decide, by decide, rfl, rfl, .inr rfl⟩

/-- T7. -/
theorem witness_UnsupportedWordIsReported :
    { start with mem := [(0x200, 0x51#8), (0x201, 0x21#8)] }.fetchesNext 0x5121#16 ∧
      decodeWord 0x5121#16 = .error (.unsupported 0x5121#16) :=
  ⟨⟨⟨rfl, rfl, .inl rfl⟩, rfl, by decide, by decide⟩, by decide⟩

theorem witness_HaltedCoreRefusesCycle : (State.construct clipped).cyclesNext ∧ (State.construct clipped).run = .halted :=
  ⟨⟨rfl, rfl, .inl rfl⟩, rfl⟩

/-- F1, and the jump at the highest address that holds one. -/
theorem witness_JumpToSelfIsIdle :
    { start with mem := [(0x200, 0x12#8)] }.fetchesNext 0x1200#16 ∧ (0x1200#16).toNat = 0x1000 + start.pc.toNat ∧
      { start with pc := 4094#16, mem := [(4094, 0x1F#8), (4095, 0xFE#8)] }.fetchesNext 0x1FFE#16 ∧
      (0x1FFE#16).toNat = 0x1000 + 4094 :=
  ⟨⟨⟨rfl, rfl, .inl rfl⟩, rfl, by decide, by decide⟩, by decide, ⟨⟨rfl, rfl, .inl rfl⟩, rfl, by decide, by decide⟩,
    by decide⟩

/-- PC stays at 4094 and moves from 4095. -/
theorem witness_PlacedWordRunsNext :
    decodeTableWord 16 0x6107 = some (.ldImm 1 7#8) ∧ { start with pc := 4094#16 }.fetchSite = 4094#16 ∧
      { start with pc := 4095#16 }.fetchSite = 0x200#16 := by decide

/-- The font right below the largest program, right above a program, and anywhere beside the empty one. -/
theorem witness_LoadPlacesFontAndProgram :
    start.tornDown = false ∧ start.wait = none ∧
      loadAllowed { clipped with fontBaseAddress := 432 } (List.replicate 80 0xF0#8) (List.replicate 3584 1#8) ∧
      loadAllowed { clipped with fontBaseAddress := 515 } (List.replicate 80 0xF0#8) [1#8, 2#8, 3#8] ∧
      loadAllowed { clipped with fontBaseAddress := 4016 } (List.replicate 80 0xF0#8) [] := by
  refine ⟨rfl, rfl, ⟨by decide, ?_, ?_, .inl (by decide)⟩, ⟨by decide, ?_, by decide, .inr (.inl (by decide))⟩,
    by decide, ?_, by decide, .inr (.inr rfl)⟩
  · exact List.length_replicate
  · rw [List.length_replicate]
  · exact List.length_replicate
  · exact List.length_replicate

/-- 3585 bytes, each strap outside its range, a font of 79 bytes, and one that overlaps by one byte; after it a
`Load` the host may make. -/
theorem witness_LoadIsRefused :
    start.tornDown = false ∧ start.wait = none ∧ 3584 < (List.replicate 3585 0#8).length ∧
      (∀ c ∈ [{ clipped with displayWidth := 0 }, { clipped with displayHeight := 0 },
        { clipped with fontBaseAddress := 4017 }, { clipped with instructionsPerSecond := 0 }], ¬ Straps.legal c) ∧
      clipped.legal ∧ (List.replicate 79 0#8).length ≠ 80 ∧
      ((433 ≤ 512 ∧ 512 < 433 + 80) ∧ 0x200 ≤ 512 ∧ 512 < 0x200 + 1) ∧
      loadAllowed start.cfg (List.replicate 80 0#8) [] := by
  refine ⟨rfl, rfl, ?_, by decide, by decide, by decide, by decide, by decide, ?_, by decide, .inr (.inr rfl)⟩
  · rw [List.length_replicate]; decide
  · exact List.length_replicate

theorem witness_StepKeepsInvariant : start.Inv ∧ ∃ t, step start = .next t := ⟨by decide, _, rfl⟩

theorem witness_StrapsNeverChange : ∃ t, step start = .next t := ⟨_, rfl⟩

/-- A `Load` of a halted core, a running core that meets the end of memory, and one whose `Load` is refused. -/
theorem witness_RunChangesOnlyByLoadAndBoundsViolation :
    { State.construct clipped with moves := [.load (List.replicate 80 0#8) []] }.Inv ∧
      (∃ t, step { State.construct clipped with moves := [.load (List.replicate 80 0#8) []] } = .next t ∧
        t.run = .running) ∧
      { start with pc := 4095#16 }.Inv ∧
      (∃ t, step { start with pc := 4095#16 } = .next t ∧ t.run = .halted) ∧
      { start with moves := [.load [] []] }.Inv ∧
      ∃ t, step { start with moves := [.load [] []] } = .next t ∧ t.run = .halted :=
  ⟨by decide, ⟨_, rfl, rfl⟩, by decide, ⟨_, rfl, rfl⟩, by decide, _, rfl, rfl⟩

/-- FX15, a tick from 255 and a `Load` each give a next state. -/
theorem witness_TimersMoveOnlyBySetTickAndReset :
    (∃ t, step ({ start with mem := [(0x200, 0xF0#8), (0x201, 0x15#8)] }.setV 0 5#8) = .next t ∧ t.dt = 5#8) ∧
      (∃ t, step { start with dt := 255#8, moves := [.tick .delay] } = .next t ∧ t.dt = 254#8) ∧
      ∃ t, step { start with dt := 9#8, moves := [.load (List.replicate 80 0#8) []] } = .next t ∧ t.dt = 0#8 :=
  ⟨⟨_, rfl, rfl⟩, ⟨_, rfl, by decide⟩, _, rfl, rfl⟩

/-- K14: at 1 and at 0. -/
theorem witness_TickDecrementsItsTimer :
    { start with dt := 1#8, moves := [.tick .delay] }.tornDown = false ∧
      { start with st := 0#8, moves := [.tick .sound] }.moves = .tick .sound :: [] := ⟨rfl, rfl⟩

theorem witness_InstructionsWriteOnlyTheirRow : ∃ t, exec (.storeRegs 15) start = .next t := ⟨_, rfl⟩

/-- The two numbers next to the shut-out ones. -/
theorem witness_SysDoesNothing : (0x0E1#12 ≠ 0x0E0#12 ∧ 0x0E1#12 ≠ 0x0EE#12) ∧ 0x0EF#12 ≠ 0x0EE#12 := by decide

/-- 15 and 16 entries. -/
theorem witness_CallPushesReturnAddress :
    { start with stack := List.replicate 15 7#16 }.stack.length < 16 ∧
      16 ≤ { start with stack := List.replicate 16 7#16 }.stack.length := by decide

theorem witness_ReturnPopsPc :
    { start with stack := [0xFFFF#16] }.stack = 0xFFFF#16 :: [] ∧ start.stack = [] := ⟨rfl, rfl⟩

theorem witness_CallThenReturnLandsAfterCall :
    ∃ t, exec (.call 0x22A#12) start = .next t ∧ { start with stack := t.stack }.stack = t.stack := ⟨_, rfl, rfl⟩

theorem witness_SkipOnRegisters :
    1#4 ≠ 0#4 ∧ (0x5121#16).toNat = 0x5000 + 256 * (1 : RegIdx).val + 16 * (2 : RegIdx).val + (1#4).toNat ∧
      15#4 ≠ 0#4 ∧ (0x912F#16).toNat = 0x9000 + 256 * (1 : RegIdx).val + 16 * (2 : RegIdx).val + (15#4).toNat := by decide

/-- Both straps; F18 and F20 give the register. -/
theorem witness_JumpWithOffset :
    start.cfg.jumpOffsetUsesVx = false ∧ (startWith wrapped).cfg.jumpOffsetUsesVx = true ∧
      (3 : RegIdx).val = (0x300#12).toNat / 256 ∧ (15 : RegIdx).val = (0xFFF#12).toNat / 256 := by decide

/-- The clauses with and without x = 15. -/
theorem witness_AddRegistersSetsCarry : (14 : RegIdx) ≠ regF ∧ (15 : RegIdx) = regF := by decide

theorem witness_SubtractSetsNoBorrow : (14 : RegIdx) ≠ regF ∧ (15 : RegIdx) = regF := by decide

/-- Either strap gives an operand. -/
theorem witness_ShiftsMoveOneBit :
    (255 = if clipped.shiftCopiesVy = true then 10 else 255) ∧
      (10 = if wrapped.shiftCopiesVy = true then 10 else 255) ∧ (14 : RegIdx) ≠ regF := by decide

theorem witness_AddToIndexRegister :
    start.cfg.addISetsVf = false ∧ (startWith wrapped).cfg.addISetsVf = true := by decide

theorem witness_PointIndexAtGlyph : (startWith { clipped with fontBaseAddress := 4016 }).cfg.fontBaseAddress ≤ 4016 := by
  decide

theorem witness_StoreDecimalDigits : { start with index := 4093#16 }.base ≤ 4093 := by decide

/-- The last base for one register and for sixteen, and both straps. -/
theorem witness_StoreRegisters :
    { start with index := 4095#16 }.base + (0 : RegIdx).val ≤ 4095 ∧
      { start with index := 4080#16 }.base + (15 : RegIdx).val ≤ 4095 ∧
      start.cfg.bcdAndLoadIncrementI = false ∧ (startWith wrapped).cfg.bcdAndLoadIncrementI = true := by decide

theorem witness_LoadRegisters :
    { start with index := 4095#16 }.base + (0 : RegIdx).val ≤ 4095 ∧
      { start with index := 4080#16 }.base + (15 : RegIdx).val ≤ 4095 ∧
      start.cfg.bcdAndLoadIncrementI = false ∧ (startWith wrapped).cfg.bcdAndLoadIncrementI = true := by decide

/-- The bytes stored are themselves a memory to load from. -/
theorem witness_StoreThenLoadRoundTrip :
    { start with index := 4094#16 }.base + (1 : RegIdx).val ≤ 4095 ∧
      ∃ t, exec (.storeRegs 1) { start with index := 4094#16 } = .next t ∧
        { start with index := 4094#16, mem := t.mem }.index = 4094#16 ∧
        ∀ k : RegIdx, k ≤ 1 → Memory.get { start with index := 4094#16, mem := t.mem }.mem (4094 + k.val) =
          Memory.get t.mem (4094 + k.val) := by
  obtain ⟨t, h⟩ : ∃ t, exec (.storeRegs 1) { start with index := 4094#16 } = .next t := ⟨_, rfl⟩
  exact ⟨by decide, t, h, rfl, fun _ _ => rfl⟩

/-- P5 in small: FX55 with x = 1 at the address of the next fetch, and at the last address for a word. -/
theorem witness_StoredWordIsFetchedNext :
    1 ≤ (1 : RegIdx).val ∧ { start with index := 0x200#16 }.base + (1 : RegIdx).val ≤ 4095 ∧
      start.pc = 0x200#16 ∧ start.cyclesNext ∧ start.run = .running ∧
      { start with pc := 4094#16, index := 4094#16 }.base + (1 : RegIdx).val ≤ 4095 ∧
      (0x6A55#16).toNat = (((start.setV 0 0x6A#8).setV 1 0x55#8).getV 0).toNat * 256 +
        (((start.setV 0 0x6A#8).setV 1 0x55#8).getV 1).toNat :=
  ⟨by decide, by decide, rfl, ⟨rfl, rfl, .inl rfl⟩, rfl, by decide, by decide⟩

/-- Two bytes left, one, and none (M15, M16, M25). -/
theorem witness_StorePastMemoryKeepsPrefix :
    4093 < { start with index := 4094#16 }.base ∧ 4093 < { start with index := 4095#16 }.base ∧
      4093 < { start with index := 4096#16 }.base ∧ { start with index := 4094#16 }.base + 1 ≤ 4095 ∧ 4095 < { start with index := 4094#16 }.base + (2 : RegIdx).val ∧
      4095 < { start with index := 65534#16 }.base + (1 : RegIdx).val := by decide

/-- M24. -/
theorem witness_LoadPastMemoryKeepsPrefix :
    4095 < { start with index := 4095#16 }.base + (1 : RegIdx).val ∧
      4095 < { start with index := 4096#16 }.base + (0 : RegIdx).val := by decide

/-- A `Render` that returns at once and one that is kept. -/
theorem witness_ClearDisplayRendersBlank :
    (∃ t, exec .cls start = .next t ∧ start.moves.head? ≠ some .holdRender ∧ t.result = some .ok) ∧
      ∃ t, exec .cls { start with moves := [.holdRender] } = .next t ∧
        { start with moves := [.holdRender] }.moves = .holdRender :: [] ∧ t.wait = some .render :=
  ⟨⟨_, rfl, by decide, rfl⟩, _, rfl, rfl, rfl⟩

/-- G8 with any I, G11 where one row is read at 4095, and a wrapped sprite that ends at 4095. -/
theorem witness_DrawXorsSpriteIntoDisplay :
    clipped.legal ∧ { start with index := 0xFFFF#16 }.rowsRead 2 0#4 = 0 ∧
      ({ start with index := 4095#16 }.setV 2 31#8).base + ({ start with index := 4095#16 }.setV 2 31#8).rowsRead 2 2#4
        ≤ 4096 ∧
      wrapped.legal ∧
      { startWith wrapped with index := 4094#16 }.base + { startWith wrapped with index := 4094#16 }.rowsRead 2 2#4
        ≤ 4096 := by decide

/-- The end of a draw whose `Render` is kept. -/
theorem witness_DrawXorsSpriteIntoDisplay_held :
    ∃ t, exec (.drw 1 2 1#4) { start with index := 0x300#16, moves := [.holdRender] } = .next t ∧
      t.wait = some .render ∧ t.moves = [] := ⟨_, rfl, rfl, rfl⟩

/-- G6 gives the first clause, a blank display the second. -/
theorem witness_DrawFlagIsCollision :
    clipped.legal ∧ { start with index := 0x300#16 }.base + { start with index := 0x300#16 }.rowsRead 2 1#4 ≤ 4096 ∧
      ({ start with index := 0x300#16, mem := [(0x300, 0x80#8)], disp := [0] }.drawHits 1 2 1#4 = [] ++ 0 :: [] ∧
        xor (List.contains [0] 0) (decide (List.count 0 ([] : List Nat) % 2 = 1)) = true) ∧
      { start with index := 0x300#16 }.drawHits 1 2 1#4 = [] := by decide

/-- G2 and then G4: the state after the first draw meets the hypotheses of the second. -/
theorem witness_DrawTwiceRestoresDisplay :
    clipped.legal ∧ { start with index := 0x300#16 }.base + { start with index := 0x300#16 }.rowsRead 2 1#4 ≤ 4096 ∧
      ∃ t, exec (.drw 1 2 1#4) { start with index := 0x300#16 } = .next t ∧ t.cfg = start.cfg ∧
        t.getV 1 = start.getV 1 ∧ t.getV 2 = start.getV 2 ∧ t.index = 0x300#16 ∧
        ∀ r, r < 1 → Memory.get t.mem (0x300 + r) = Memory.get start.mem (0x300 + r) :=
  ⟨by decide, by decide, _, rfl, rfl, by decide, by decide, rfl, fun _ _ => rfl⟩

/-- Clip on any grid, wrap on the smallest grid for 15 rows. -/
theorem witness_DrawHitsNoCellTwice :
    { clipped with displayWidth := 1, displayHeight := 1 }.legal ∧ clipped.edgePolicy = .clip ∧
      { wrapped with displayWidth := 8, displayHeight := 15 }.legal ∧ 8 ≤ 8 ∧ (15#4).toNat ≤ 15 := by decide

/-- G4: the first draw turns cell 63 on; a draw of zeros turns none on. -/
theorem witness_SecondDrawFlagsTheFirst :
    (({ start with index := 0x300#16, mem := [(0x300, 0xC0#8)] }.setV 1 63#8).drawHits 1 2 1#4).Nodup ∧
      (∃ t, exec (.drw 1 2 1#4) ({ start with index := 0x300#16, mem := [(0x300, 0xC0#8)] }.setV 1 63#8) = .next t ∧
        start.disp.contains 63 = false ∧ t.disp.contains 63 = true) ∧
      ∃ t, exec (.drw 1 2 1#4) { start with index := 0x300#16 } = .next t ∧
        ∀ k, t.disp.contains k = true → start.disp.contains k = true :=
  ⟨by decide, ⟨_, rfl, by decide, by decide⟩, _, rfl, fun _ h => h⟩

/-- G12, G14. -/
theorem witness_DrawPastMemoryKeepsRows :
    wrapped.legal ∧ { startWith wrapped with index := 4095#16 }.rowsRead 2 2#4 ≠ 0 ∧
      4096 < { startWith wrapped with index := 4095#16 }.base +
        { startWith wrapped with index := 4095#16 }.rowsRead 2 2#4 ∧
      4096 < { start with index := 4096#16 }.base + { start with index := 4096#16 }.rowsRead 2 1#4 := by decide

theorem witness_SkipOnKey : ((start.setV 5 15#8).getV 5).toNat ≤ 15 := by decide

/-- K5, K6. -/
theorem witness_KeyNumberAboveFifteenHalts :
    15 < ((start.setV 5 16#8).getV 5).toNat ∧ 15 < ((start.setV 5 255#8).getV 5).toNat := by decide

theorem witness_WaitForKey :
    { start with moves := [.press 15#4] }.moves = .press 15#4 :: [] ∧
      { start with moves := [.cancel] }.moves = .cancel :: [] ∧ (∀ k, start.moves.head? ≠ some (.press k)) ∧
      start.moves.head? ≠ some .cancel := ⟨rfl, rfl, by simp [start, startWith, State.construct], by decide⟩

/-- Every move in either wait. -/
theorem witness_BlockedCoreWaitsForTheHost :
    ∀ w ∈ [Wait.key 3, .render], { start with wait := some w }.tornDown = false ∧ { start with wait := some w }.moves = [] ∧
      (∀ m ∈ [Move.press 0#4, .press 15#4, .cancel, .tick .delay, .tick .sound, .cycle, .teardown, .load [] [],
          .holdRender, .renderReturn],
        { start with wait := some w, moves := [m] }.moves = m :: []) :=
  fun _ _ => ⟨rfl, rfl, fun _ _ => rfl⟩

theorem witness_PortMovesOutsideAWait :
    start.tornDown = false ∧ start.wait = none ∧
      ∀ m ∈ [Move.keys 0xFFFF#16, .press 0#4, .cancel, .holdRender, .renderReturn],
        { start with moves := [m] }.moves = m :: [] :=
  ⟨rfl, rfl, fun _ _ => rfl⟩

theorem witness_NoStepAfterTeardown :
    { start with tornDown := true }.tornDown = true ∧ { start with moves := [.teardown] }.tornDown = false ∧
      { start with moves := [.teardown] }.wait = none ∧
      ∃ t, step { start with moves := [.teardown] } = .next t ∧ t.tornDown = true := ⟨rfl, rfl, rfl, _, rfl, rfl⟩

end Sys2Proof.Tests
end

section
/-! PROOF. The fields of a word in each format, and from them that the decoder inverts the encoder
(30_encoding.md R53 to R55). -/

namespace Sys2Proof

/-! ### The fields of the three formats -/

@[simp] theorem fieldC_wordNNN (c : Nibble) (nnn : Addr12) : fieldC (wordNNN c nnn) = c := by
  apply BitVec.eq_of_toNat_eq
  have := nnn.isLt
  rw [fieldC_toNat, wordNNN_toNat]
  omega

@[simp] theorem fieldNNN_wordNNN (c : Nibble) (nnn : Addr12) : fieldNNN (wordNNN c nnn) = nnn := by
  apply BitVec.eq_of_toNat_eq
  have := nnn.isLt
  rw [fieldNNN_toNat, wordNNN_toNat]
  omega

@[simp] theorem fieldC_wordXNN (c : Nibble) (x : RegIdx) (nn : Byte) : fieldC (wordXNN c x nn) = c := by
  apply BitVec.eq_of_toNat_eq
  have := nn.isLt
  rw [fieldC_toNat, wordXNN_toNat]
  omega

@[simp] theorem fieldX_wordXNN (c : Nibble) (x : RegIdx) (nn : Byte) : fieldX (wordXNN c x nn) = x := by
  apply Fin.ext
  have := nn.isLt
  rw [fieldX_val, wordXNN_toNat]
  omega

@[simp] theorem fieldNN_wordXNN (c : Nibble) (x : RegIdx) (nn : Byte) : fieldNN (wordXNN c x nn) = nn := by
  apply BitVec.eq_of_toNat_eq
  have := nn.isLt
  rw [fieldNN_toNat, wordXNN_toNat]
  omega

@[simp] theorem fieldC_wordXYN (c : Nibble) (x y : RegIdx) (n : Nibble) : fieldC (wordXYN c x y n) = c := by
  apply BitVec.eq_of_toNat_eq
  have := n.isLt
  rw [fieldC_toNat, wordXYN_toNat]
  omega

@[simp] theorem fieldX_wordXYN (c : Nibble) (x y : RegIdx) (n : Nibble) : fieldX (wordXYN c x y n) = x := by
  apply Fin.ext
  have := n.isLt
  rw [fieldX_val, wordXYN_toNat]
  omega

@[simp] theorem fieldY_wordXYN (c : Nibble) (x y : RegIdx) (n : Nibble) : fieldY (wordXYN c x y n) = y := by
  apply Fin.ext
  have := n.isLt
  rw [fieldY_val, wordXYN_toNat]
  omega

@[simp] theorem fieldN_wordXYN (c : Nibble) (x y : RegIdx) (n : Nibble) : fieldN (wordXYN c x y n) = n := by
  apply BitVec.eq_of_toNat_eq
  have := n.isLt
  rw [fieldN_toNat, wordXYN_toNat]
  omega

/-! ### The decoder on encoded words -/

/-- Group 0 with a field other than the two FIXED words is 0NNN (30_encoding.md R54). -/
theorem decodeGroup0_wordNNN {nnn : Addr12} (h0 : nnn ≠ 0x0E0#12) (h1 : nnn ≠ 0x0EE#12) :
    decodeGroup0 (wordNNN 0x0#4 nnn) = .ok (.sys nnn) := by
  have hne {w : Word} (h : nnn ≠ fieldNNN w) : wordNNN 0x0#4 nnn ≠ w := fun e =>
    h (by rw [← e, fieldNNN_wordNNN])
  have hcls : wordNNN 0x0#4 nnn ≠ 0x00E0#16 := hne h0
  have hret : wordNNN 0x0#4 nnn ≠ 0x00EE#16 := hne h1
  rw [decodeGroup0, if_neg hcls, if_neg hret, fieldNNN_wordNNN]

/-- Decoding the word of a well-formed instruction gives it back. -/
theorem decodeWord_encode {i : Instr} (h : i.wellFormed = true) : decodeWord (encode i) = .ok i := by
  cases i with
  | cls | ret => rfl
  | sys nnn =>
    obtain ⟨h0, h1⟩ : nnn ≠ 0x0E0#12 ∧ nnn ≠ 0x0EE#12 := by simpa [Instr.wellFormed] using h
    simp [encode, decodeWord, decodeGroup0_wordNNN h0 h1]
  | jp | call | ldI | jpOff => simp [encode, decodeWord]
  | seImm | sneImm | ldImm | addImm | rnd => simp [encode, decodeWord]
  | seReg | sneReg | drw => simp [encode, decodeWord]
  | ldReg | orReg | andReg | xorReg | addReg | sub | shr | subn | shl =>
    simp [encode, decodeWord, decodeGroup8]
  | skp | sknp => simp [encode, decodeWord, decodeGroupE]
  | getDt | waitKey | setDt | setSt | addI | ldF | bcd | storeRegs | loadRegs =>
    simp [encode, decodeWord, decodeGroupF]

/-- The word with the number of a well-formed instruction's encoding decodes to that instruction. -/
theorem decodeWord_ofNat {i : Instr} {k : Nat} (h : i.wellFormed = true) (hk : k = (encode i).toNat) :
    decodeWord (BitVec.ofNat 16 k) = .ok i := by
  rw [hk, BitVec.ofNat_toNat, BitVec.setWidth_eq]
  exact decodeWord_encode h

/-- In groups 5 and 9 a low nibble other than 0 makes the word unsupported (41_flow.md R81, R82). -/
theorem decodeWord_skipReg_unsupported {w : Word} (hc : (fieldC w).toNat = 5 ∨ (fieldC w).toNat = 9)
    (hn : fieldN w ≠ 0#4) : decodeWord w = .error (.unsupported w) := by
  rcases hc with hc | hc
  · simp [decodeWord, hc, hn]
  · simp [decodeWord, hc, hn]

end Sys2Proof
end

section
/-! PROOF. How control transfers complete, and the statements about control flow (41_flow.md). -/

namespace Sys2Proof.Machine

/-! ### Completion and the frame -/

/-- Completing after an update of `ps` writes the reply beside them. -/
theorem ChangesOnly.finish {ps : List Part} {s u : State} (h : ChangesOnly ps s u) :
    ChangesOnly (.result :: ps) s u.finish := by
  have hf : ChangesOnly (.result :: ps) u u.finish := by
    intro p hp
    cases p with
    | result => simp at hp
    | _ => rfl
  exact (h.mono fun _ => List.mem_cons_of_mem _).trans hf

/-- Writing PC touches no other part. -/
theorem State.setPc_frame (s : State) (w : Word) : ChangesOnly [.pc] s (s.setPc w) := by
  intro p hp
  cases p with
  | pc => simp at hp
  | _ => rfl

/-- A skip is a write of PC, or nothing. -/
theorem State.skipIf_frame (s : State) (c : Bool) : ChangesOnly [.pc] s (s.skipIf c) := by
  cases c with
  | false => exact ChangesOnly.refl _ s
  | true => exact s.setPc_frame (s.pc + 2#16)

/-- A skip moves PC on by 2, modulo 65536, when its condition holds (10_state.md R21, 41_flow.md R79). -/
theorem State.skipIf_pc_toNat (s : State) (c : Bool) :
    (s.skipIf c).pc.toNat = if c then (s.pc.toNat + 2) % 65536 else s.pc.toNat := by
  cases c with
  | false => rfl
  | true => exact BitVec.toNat_add s.pc 2#16

/-- A 12-bit address keeps its number as a 16-bit value. -/
theorem addrWord_toNat (nnn : Addr12) : (addrWord nnn).toNat = nnn.toNat :=
  BitVec.toNat_setWidth_of_le (by decide)

/-! ### The two conditions of a skip -/

/-- Skipping when two bytes are equal (41_flow.md R79, R81). -/
theorem complete_skipIf_beq (s : State) (a b : Byte) :
    ∃ t, complete (s.skipIf (a == b)) = .next t ∧ t.result = some .ok ∧
      t.pc.toNat = (if a = b then (s.pc.toNat + 2) % 65536 else s.pc.toNat) ∧
      ChangesOnly [.result, .pc] s t := by
  refine ⟨_, complete_eq _, rfl, ?_, (s.skipIf_frame _).finish⟩
  simpa only [State.finish_pc, beq_iff_eq] using s.skipIf_pc_toNat (a == b)

/-- Skipping when two bytes differ (41_flow.md R80, R82). -/
theorem complete_skipIf_bne (s : State) (a b : Byte) :
    ∃ t, complete (s.skipIf (a != b)) = .next t ∧ t.result = some .ok ∧
      t.pc.toNat = (if a = b then s.pc.toNat else (s.pc.toNat + 2) % 65536) ∧
      ChangesOnly [.result, .pc] s t := by
  refine ⟨_, complete_eq _, rfl, ?_, (s.skipIf_frame _).finish⟩
  simpa only [State.finish_pc, bne_iff_ne, ne_eq, ite_not] using s.skipIf_pc_toNat (a != b)

/-! ### The obligations -/

/-- Settles O28: the words are the encodings, another low nibble leaves group 5 or 9 without an instruction, and
the meanings are the two skips on V[x] and V[y]. -/
theorem skipOnRegisters : Obligations.SkipOnRegisters := by
  refine ⟨fun x y => ⟨decodeWord_ofNat rfl ?_, decodeWord_ofNat rfl ?_⟩, ?_, fun x y s => ⟨?_, ?_⟩⟩
  · simp only [encode, wordXYN_toNat, BitVec.reduceToNat]
    omega
  · simp only [encode, wordXYN_toNat, BitVec.reduceToNat]
    omega
  · intro x y n hn w hw
    have hlt := n.isLt
    have hn0 : n.toNat ≠ 0 := fun h => hn (BitVec.eq_of_toNat_eq h)
    apply decodeWord_skipReg_unsupported
    · rw [fieldC_toNat]
      omega
    · intro h
      have hz : w.toNat % 16 = 0 := by rw [← fieldN_toNat, h]; rfl
      omega
  · exact complete_skipIf_beq s (s.getV x) (s.getV y)
  · exact complete_skipIf_bne s (s.getV x) (s.getV y)

/-- Settles O22: the word is the encoding of a well-formed 0NNN, and the meaning completes on the state as it is. -/
theorem sysDoesNothing : Obligations.SysDoesNothing := by
  refine ⟨fun nnn h0 h1 => decodeWord_ofNat ?_ ?_, fun nnn s => ?_⟩
  · simp [Instr.wellFormed, h0, h1]
  · simp only [encode, wordNNN_toNat, BitVec.reduceToNat, Nat.zero_mul]
  · exact ⟨_, complete_eq s, rfl, (ChangesOnly.refl [] s).finish⟩

/-- Settles O23: the word is the encoding, and the meaning writes the target to PC and completes. -/
theorem jumpLoadsPc : Obligations.JumpLoadsPc := by
  refine ⟨fun nnn => decodeWord_ofNat rfl ?_, fun nnn s => ?_⟩
  · simp only [encode, wordNNN_toNat, BitVec.reduceToNat]
  · exact ⟨_, complete_eq _, rfl, addrWord_toNat nnn, (s.setPc_frame _).finish⟩

/-- Settles O27: the words are the encodings, and the meanings are the two skips on V[x] and nn. -/
theorem skipOnImmediate : Obligations.SkipOnImmediate := by
  refine ⟨fun x nn => ⟨decodeWord_ofNat rfl ?_, decodeWord_ofNat rfl ?_⟩, fun x nn s => ⟨?_, ?_⟩⟩
  · simp only [encode, wordXNN_toNat, BitVec.reduceToNat]
    omega
  · simp only [encode, wordXNN_toNat, BitVec.reduceToNat]
    omega
  · exact complete_skipIf_beq s (s.getV x) nn
  · exact complete_skipIf_bne s (s.getV x) nn

end Sys2Proof.Machine
end

section
/-! PROOF. How register writes complete, and the statements about loads, flagless addition and logic (42_alu.md). -/

namespace Sys2Proof

/-! ### Words given as numbers -/

/-- A word of format XNN, given by its number, decodes to the instruction it encodes (30_encoding.md R53). -/
theorem decodeWord_ofNat_XNN {i : Instr} {c : Nibble} {x : RegIdx} {nn : Byte} {k : Nat} (h : i.wellFormed = true)
    (hi : encode i = wordXNN c x nn) (hk : k = c.toNat * 4096) :
    decodeWord (BitVec.ofNat 16 (k + 256 * x.val + nn.toNat)) = .ok i := by
  apply decodeWord_ofNat h
  rw [hi, wordXNN_toNat]
  omega

/-- A word of format XYN, given by its number, decodes to the instruction it encodes (30_encoding.md R53). -/
theorem decodeWord_ofNat_XYN {i : Instr} {c n : Nibble} {x y : RegIdx} {k : Nat} (h : i.wellFormed = true)
    (hi : encode i = wordXYN c x y n) (hk : k = c.toNat * 4096 + n.toNat) :
    decodeWord (BitVec.ofNat 16 (k + 256 * x.val + 16 * y.val)) = .ok i := by
  apply decodeWord_ofNat h
  rw [hi, wordXYN_toNat]
  omega

end Sys2Proof

namespace Sys2Proof.Machine

/-! ### Completing with one register written -/

/-- Writing V[x] touches no other part. -/
theorem State.setV_frame (s : State) (x : RegIdx) (b : Byte) : ChangesOnly [.v x] s (s.setV x b) := by
  intro p hp
  cases p with
  | v r => exact s.getV_setV_other b fun h => hp (by simp [h])
  | _ => rfl

/-- Completing after V[x] takes a byte (42_alu.md R86, R88). -/
theorem complete_setV (s : State) (x : RegIdx) (b : Byte) :
    ∃ t, complete (s.setV x b) = .next t ∧ t.result = some .ok ∧ t.getV x = b ∧ ChangesOnly [.result, .v x] s t :=
  ⟨_, complete_eq _, rfl, s.getV_setV_self x b, (s.setV_frame x b).finish⟩

/-- Completing after V[x] takes a byte whose bits are known. -/
theorem complete_setV_bits (s : State) (x : RegIdx) {b : Byte} {f : Nat → Bool} (hb : ∀ k, b.getLsbD k = f k) :
    ∃ t, complete (s.setV x b) = .next t ∧ t.result = some .ok ∧ ChangesOnly [.result, .v x] s t ∧
      ∀ k, (t.getV x).getLsbD k = f k := by
  obtain ⟨t, ht, hr, hv, hf⟩ := complete_setV s x b
  exact ⟨t, ht, hr, hf, fun k => by rw [hv, hb]⟩

/-! ### The obligations -/

/-- Settles O32: the words are the encodings, and the meanings write to V[x] the byte with each bit combined. -/
theorem logicIsBitwise : Obligations.LogicIsBitwise := by
  refine ⟨fun x y => ⟨?_, ?_, ?_⟩, fun x y s => ⟨?_, ?_, ?_⟩⟩
  · exact decodeWord_ofNat_XYN rfl rfl rfl
  · exact decodeWord_ofNat_XYN rfl rfl rfl
  · exact decodeWord_ofNat_XYN rfl rfl rfl
  · exact complete_setV_bits s x fun _ => BitVec.getLsbD_or
  · exact complete_setV_bits s x fun _ => BitVec.getLsbD_and
  · exact complete_setV_bits s x fun _ => BitVec.getLsbD_xor

/-- Settles O30: the words are the encodings, and the meanings write nn or V[y] to V[x]. -/
theorem loadAndCopyRegister : Obligations.LoadAndCopyRegister := by
  refine ⟨fun x nn => ?_, fun x y => ?_, fun x nn s => ?_, fun x y s => ?_⟩
  · exact decodeWord_ofNat_XNN rfl rfl rfl
  · exact decodeWord_ofNat_XYN rfl rfl rfl
  · exact complete_setV s x nn
  · exact complete_setV s x (s.getV y)

/-- Settles O31: the word is the encoding, and the meaning writes the sum of two bytes to V[x]. -/
theorem addImmediateWraps : Obligations.AddImmediateWraps := by
  refine ⟨fun x nn => decodeWord_ofNat_XNN rfl rfl rfl, fun x nn s => ?_⟩
  obtain ⟨t, ht, hr, hv, hf⟩ := complete_setV s x (s.getV x + nn)
  exact ⟨t, ht, hr, by rw [hv, BitVec.toNat_add], hf⟩

end Sys2Proof.Machine
end

section
/-! PROOF. How writes of I complete, and the statements about loading I (43_index_memory.md). -/

namespace Sys2Proof.Machine

/-! ### Completing with I written -/

/-- Writing I touches no other part. -/
theorem State.setIndex_frame (s : State) (w : Word) : ChangesOnly [.index] s (s.setIndex w) := by
  intro p hp
  cases p with
  | index => simp at hp
  | _ => rfl

/-- Completing after I takes a word whose number is known (43_index_memory.md R100, R102). -/
theorem complete_setIndex (s : State) {w : Word} {k : Nat} (hw : w.toNat = k) :
    ∃ t, complete (s.setIndex w) = .next t ∧ t.result = some .ok ∧ t.index.toNat = k ∧
      ChangesOnly [.result, .index] s t :=
  ⟨_, complete_eq _, rfl, hw, (s.setIndex_frame w).finish⟩

/-- A glyph's address is not reduced: a font region inside memory keeps `FB + 5 * 255` below 65536
(00_scope.md R8, 43_index_memory.md R102). -/
theorem State.glyphAddr_toNat {s : State} (hfb : s.cfg.fontBaseAddress ≤ 4016) (b : Byte) :
    (s.glyphAddr b).toNat = s.cfg.fontBaseAddress + b.toNat * 5 := by
  have hb : b.toNat < 256 := b.isLt
  exact Nat.mod_eq_of_lt (by omega)

/-! ### The obligations -/

/-- Settles O37: the word is the encoding, and the meaning writes nnn to I. -/
theorem loadIndexRegister : Obligations.LoadIndexRegister := by
  refine ⟨fun nnn => decodeWord_ofNat rfl ?_, fun nnn s => ?_⟩
  · simp only [encode, wordNNN_toNat, BitVec.reduceToNat]
  · exact complete_setIndex s (addrWord_toNat nnn)

/-- Settles O39: the word is the encoding, and the meaning writes the address of V[x]'s glyph to I. -/
theorem pointIndexAtGlyph : Obligations.PointIndexAtGlyph := by
  refine ⟨fun x => decodeWord_ofNat rfl ?_, fun x s hfb => ?_⟩
  · simp only [encode, wordXNN_toNat, BitVec.reduceToNat]
    omega
  · exact complete_setIndex s (State.glyphAddr_toNat hfb (s.getV x))

end Sys2Proof.Machine
end

section
/-! PROOF. The frames of the state's updates, and what executing one instruction can do, said once: `exec_cases`,
from which the statements about all instructions follow (10_state.md section 13, 60_exceptions.md section 1). -/

namespace Sys2Proof.Machine

/-! ### Reading after a store -/

/-- A byte of a stored sequence whose address exists. -/
theorem Memory.get_store_inside (m : Memory) {a k : Nat} {bs : List Byte} (hk : k < bs.length) (ha : a + k ≤ 4095) :
    Memory.get (Memory.store m a bs).1 (a + k) = bs.getD k 0#8 := by
  rw [Memory.get_store, if_pos ⟨by omega, by omega, ha⟩, Nat.add_sub_cancel_left]

/-- A byte that the stored sequence does not reach. -/
theorem Memory.get_store_outside (m : Memory) {a x : Nat} {bs : List Byte}
    (h : x < a ∨ a + bs.length ≤ x ∨ 4095 < x) : Memory.get (Memory.store m a bs).1 x = Memory.get m x := by
  rw [Memory.get_store, if_neg]
  unfold lastAddr
  omega

/-! ### Frames of the updates -/

/-- The frame of two updates in a row: the parts of the first and of the second. -/
theorem ChangesOnly.append {ps qs : List Part} {s t u : State} (h : ChangesOnly ps s t) (h' : ChangesOnly qs t u) :
    ChangesOnly (ps ++ qs) s u :=
  (h.mono fun _ hp => List.mem_append_left qs hp).trans (h'.mono fun _ hp => List.mem_append_right ps hp)

theorem State.setFlag_frame (s : State) (b : Bool) : ChangesOnly [.v regF] s (s.setFlag b) := s.setV_frame regF _

theorem State.setStack_frame (s : State) (ws : List Word) : ChangesOnly [.stack] s { s with stack := ws } := by
  intro p hp
  cases p with
  | stack => simp at hp
  | _ => rfl

theorem State.setDisp_frame (s : State) (d : Display) : ChangesOnly [.disp] s (s.setDisp d) := by
  intro p hp
  cases p with
  | disp => simp at hp
  | _ => rfl

theorem State.render_frame (s : State) : ChangesOnly [.renders] s s.render := by
  intro p hp
  cases p with
  | renders => simp at hp
  | _ => rfl

theorem State.drawn_frame (s : State) : ChangesOnly [.draws] s s.drawn := by
  intro p hp
  cases p with
  | draws => simp at hp
  | _ => rfl

theorem State.dropMove_frame (s : State) : ChangesOnly [.moves] s s.dropMove := by
  intro p hp
  cases p with
  | moves => simp at hp
  | _ => rfl

theorem State.atExecute_frame (s : State) : ChangesOnly [.pc, .moves] s s.atExecute := by
  intro p hp
  cases p with
  | pc | moves => simp at hp
  | _ => rfl

theorem State.block_frame (s : State) (w : Wait) : ChangesOnly [.wait] s (s.block w) := by
  intro p hp
  cases p with
  | wait => simp at hp
  | _ => rfl

/-- An error goes to the host, and only a fatal one writes RUN (60_exceptions.md R130). -/
theorem State.raise_frame (s : State) (e : CycleError) : ChangesOnly [.result, .run] s (s.raise e) := by
  intro p hp
  cases p with
  | result | run => simp at hp
  | _ => rfl

theorem State.raise_frame_of_not_fatal (s : State) {e : CycleError} (h : e.fatal = false) :
    ChangesOnly [.result] s (s.raise e) := by
  intro p hp
  cases p with
  | result => simp at hp
  | run => exact s.raise_run_of_not_fatal h
  | _ => rfl

theorem State.deliver_frame (s : State) (x : RegIdx) (k : Nibble) :
    ChangesOnly [.result, .v x, .wait] s (s.deliver x k) := by
  intro p hp
  cases p with
  | result | wait => simp at hp
  | v r => exact s.getV_setV_other _ fun h => hp (by simp [h])
  | _ => rfl

theorem State.cancelWait_frame (s : State) : ChangesOnly [.result, .wait] s s.cancelWait := by
  intro p hp
  cases p with
  | result | wait => simp at hp
  | _ => rfl

theorem State.returnRender_frame (s : State) : ChangesOnly [.result, .wait] s s.returnRender := by
  intro p hp
  cases p with
  | result | wait => simp at hp
  | _ => rfl

/-- The part of the state that a timer is. -/
abbrev Timer.part (T : Timer) : Part := if T = .delay then .dt else .st

theorem State.timerSet_frame (s : State) (T : Timer) (b : Byte) : ChangesOnly [T.part] s (s.timerSet T b) := by
  intro p hp
  cases T with
  | delay =>
    cases p with
    | dt => simp at hp
    | _ => rfl
  | sound =>
    cases p with
    | st => simp at hp
    | _ => rfl

theorem State.tick_frame (s : State) (T : Timer) : ChangesOnly [T.part] s (s.tick T) := by
  unfold State.tick
  split
  · exact ChangesOnly.refl _ s
  · exact s.timerSet_frame T _

/-- Storing bytes from I on writes at most the addresses they go to, and none above 4095. -/
theorem State.store_frame (s : State) {bs : List Byte} {count : Nat}
    (h : bs.length ≤ count ∨ 4096 ≤ s.base + count) :
    ChangesOnly (s.bytesFromIndex count) s (s.setMem (Memory.store s.mem s.base bs).1) := by
  intro p hp
  cases p with
  | mem a =>
    rw [State.mem_bytesFromIndex] at hp
    exact Memory.get_store_outside _ (by omega)
  | _ => rfl

/-- Filling the first registers writes no register past the bytes. -/
theorem State.fill_frame (s : State) {bs : List Byte} {x : RegIdx} (h : bs.length ≤ x.val + 1) :
    ChangesOnly (regsUpTo x) s (s.fill bs) := by
  intro p hp
  cases p with
  | v r =>
    rw [mem_regsUpTo, Fin.le_def] at hp
    exact (s.getV_fill bs r).trans (if_neg (by omega))
  | _ => rfl

theorem State.fill_load_frame (s : State) (x : RegIdx) :
    ChangesOnly (regsUpTo x) s (s.fill (Memory.load s.mem s.base (x.val + 1)).1) :=
  s.fill_frame (by rw [Memory.length_load]; exact Nat.min_le_left ..)

/-- FX55 and FX65 write I only under the strap (43_index_memory.md R104, R105). -/
theorem State.stepIndex_frame (s : State) (x : RegIdx) :
    ChangesOnly (if s.cfg.bcdAndLoadIncrementI then [.index] else []) s (s.stepIndex x) := by
  unfold State.stepIndex
  split
  · exact s.setIndex_frame _
  · exact ChangesOnly.refl _ s

/-! ### The canonical forms -/

/-- An update that keeps the straps, the canonical forms of memory and display, and the bound of the stack. -/
structure KeepsForm (s u : State) : Prop where
  cfg : u.cfg = s.cfg
  mem : Memory.wf s.mem → Memory.wf u.mem
  disp : s.cfg.legal → Display.wf s.cfg s.disp → Display.wf s.cfg u.disp
  stack : s.stack.length ≤ 16 → u.stack.length ≤ 16

/-- An update of other fields keeps the forms. -/
theorem KeepsForm.of_eq {s u : State} (hc : u.cfg = s.cfg) (hm : u.mem = s.mem) (hd : u.disp = s.disp)
    (hs : u.stack = s.stack) : KeepsForm s u := ⟨hc, fun h => hm ▸ h, fun _ h => hd ▸ h, fun h => hs ▸ h⟩

theorem KeepsForm.trans {s u w : State} (h : KeepsForm s u) (h' : KeepsForm u w) : KeepsForm s w where
  cfg := h'.cfg.trans h.cfg
  mem := h'.mem ∘ h.mem
  disp hc hd := h.cfg ▸ h'.disp (h.cfg ▸ hc) (h.cfg ▸ h.disp hc hd)
  stack := h'.stack ∘ h.stack

theorem KeepsForm.setMem_store (s : State) (a : Nat) (bs : List Byte) :
    KeepsForm s (s.setMem (Memory.store s.mem a bs).1) :=
  ⟨rfl, fun h => Memory.wf_store h a bs, fun _ => id, id⟩

theorem KeepsForm.setDisp {s : State} {d : Display}
    (h : s.cfg.legal → Display.wf s.cfg s.disp → Display.wf s.cfg d) : KeepsForm s (s.setDisp d) :=
  ⟨rfl, id, h, id⟩

theorem KeepsForm.setStack {s : State} {ws : List Word} (h : s.stack.length ≤ 16 → ws.length ≤ 16) :
    KeepsForm s { s with stack := ws } := ⟨rfl, id, fun _ => id, h⟩

/-! ### What an instruction does before it ends -/

/-- `u` is `s` after writes of `i` that come before its end: inside its row, with the forms kept and RUN, the
wait and the reply as they were. -/
structure Update (i : Instr) (s u : State) : Prop where
  frame : ChangesOnly (s.mayWrite i) s u
  run : u.run = s.run
  wait : u.wait = s.wait
  result : u.result = s.result
  form : KeepsForm s u

/-- No write yet. -/
theorem Update.refl (i : Instr) (s : State) : Update i s s :=
  ⟨ChangesOnly.refl _ s, rfl, rfl, rfl, .of_eq rfl rfl rfl rfl⟩

/-- One more write, of the parts `ps` of the row. -/
theorem Update.andThen {i : Instr} {s u w : State} {ps : List Part} (h : Update i s u) (hf : ChangesOnly ps u w)
    (hform : KeepsForm u w) (hrow : ∀ p ∈ ps, p ∈ s.mayWrite i)
    (hps : ∀ p ∈ [Part.run, .wait, .result], p ∉ ps) : Update i s w where
  frame := h.frame.trans (hf.mono hrow)
  run := (hf .run (hps _ (by simp))).trans h.run
  wait := (hf .wait (hps _ (by simp))).trans h.wait
  result := (hf .result (hps _ (by simp))).trans h.result
  form := h.form.trans hform

/-- One write, of the parts `ps` of the row. -/
theorem Update.one {i : Instr} {s u : State} {ps : List Part} (hf : ChangesOnly ps s u) (hform : KeepsForm s u)
    (hrow : ∀ p ∈ ps, p ∈ s.mayWrite i) (hps : ∀ p ∈ [Part.run, .wait, .result], p ∉ ps) : Update i s u :=
  (refl i s).andThen hf hform hrow hps

/-- A skip, where PC belongs to the row. -/
theorem Update.skipIf {i : Instr} (s : State) (c : Bool) (hi : Part.pc ∈ s.mayWrite i) : Update i s (s.skipIf c) :=
  .one (s.skipIf_frame c) (.of_eq (s.skipIf_cfg c) (s.skipIf_mem c) (s.skipIf_disp c) (s.skipIf_stack c))
    (by simpa using hi) (by simp)

/-- The increment of FX55 and FX65, where I belongs to the row under the strap. -/
theorem Update.stepIndex {i : Instr} {s u : State} (h : Update i s u) (x : RegIdx)
    (hi : s.cfg.bcdAndLoadIncrementI = true → Part.index ∈ s.mayWrite i) : Update i s (u.stepIndex x) := by
  refine h.andThen (u.stepIndex_frame x)
    (.of_eq (u.stepIndex_cfg x) (u.stepIndex_mem x) (u.stepIndex_disp x) (u.stepIndex_stack x)) ?_ ?_
  · rw [h.form.cfg]
    simpa using hi
  · simp

/-- Everything the execution of `i` in `s` can answer (60_exceptions.md section 1; 45_keypad_timers.md R115;
44_display.md R111). -/
inductive ExecCase (i : Instr) (s : State) : Host.Outcome State Fault Refusal → Prop where
  | completed {u : State} (hu : Update i s u) : ExecCase i s (.next u.finish)
  | overflowed (nnn : Addr12) (hi : i = .call nnn) : ExecCase i s (.next (s.raise .stackOverflow))
  | underflowed (hi : i = .ret) : ExecCase i s (.next (s.raise .stackUnderflow))
  /-- An address above 4095, or a key number above 15: what was written before stands. -/
  | halted {u : State} {a : Nat} (hu : Update i s u) (ha : 15 < a) (hi : Part.run ∈ s.mayWrite i) :
      ExecCase i s (.next (u.raise (.boundsViolation a)))
  | delivered (x : RegIdx) (k : Nibble) (hi : i = .waitKey x) : ExecCase i s (.next (s.dropMove.deliver x k))
  | cancelled (x : RegIdx) (hi : i = .waitKey x) : ExecCase i s (.next s.dropMove.cancelWait)
  | waiting (x : RegIdx) (hi : i = .waitKey x) : ExecCase i s (.next (s.block (.key x)))
  | rendering {u : State} (hu : Update i s u) (hi : i = .cls ∨ ∃ x y n, i = .drw x y n) :
      ExecCase i s (.next (u.block .render))

/-- An instruction that ends in `Render`: the snapshot that goes out, and the schedule that says what the collaborator
does, belong to its row. -/
theorem ExecCase.of_renderEnd {i : Instr} {s u : State} (hu : Update i s u)
    (hi : i = .cls ∨ ∃ x y n, i = .drw x y n) : ExecCase i s (renderEnd u) := by
  have hrow : Part.renders ∈ s.mayWrite i ∧ Part.moves ∈ s.mayWrite i := by
    rcases hi with rfl | ⟨x, y, n, rfl⟩
    · simp [State.mayWrite]
    · simp [State.mayWrite]
  have hr : Update i s u.render :=
    hu.andThen u.render_frame (.of_eq rfl rfl rfl rfl) (by simp [hrow]) (by simp)
  by_cases hm : u.moves.head? = some .holdRender
  · rw [renderEnd_of_held hm]
    exact .rendering (hr.andThen u.render.dropMove_frame (.of_eq rfl rfl rfl rfl) (by simp [hrow]) (by simp)) hi
  · rw [renderEnd_of_returned hm]
    exact .completed hr

/-- An instruction whose accesses may meet an address above 4095. -/
theorem ExecCase.of_failOr {i : Instr} {s u : State} {bad : Option Nat}
    {done : State → Host.Outcome State Fault Refusal} (hu : Update i s u) (hi : Part.run ∈ s.mayWrite i)
    (hbad : ∀ a, bad = some a → 15 < a) (hdone : ExecCase i s (done u)) : ExecCase i s (failOr u bad done) := by
  cases bad with
  | none => exact hdone
  | some a => exact .halted hu (hbad a rfl) hi

/-- A bad address of a store, a load or a draw lies above 4095. -/
theorem Memory.store_bad_gt {m : Memory} {a b : Nat} {bs : List Byte} (h : (Memory.store m a bs).2 = some b) :
    15 < b := by
  rw [Memory.store_bad] at h
  split at h
  · cases h
  · cases h
    unfold lastAddr
    omega

theorem Memory.load_bad_gt {m : Memory} {a k b : Nat} (h : (Memory.load m a k).2 = some b) : 15 < b := by
  rw [Memory.load_bad] at h
  split at h
  · cases h
  · cases h
    unfold lastAddr
    omega

theorem drawRows_bad_gt {c : Straps} {m : Memory} {base x0 y0 k r b : Nat} {cv : Canvas}
    (h : (drawRows c m base x0 y0 k r cv).2 = some b) : 15 < b := by
  induction k generalizing r cv with
  | zero => cases h
  | succ k ih =>
    unfold drawRows at h
    split at h
    · cases h
    · split at h
      · cases h
        unfold lastAddr at *
        omega
      · exact ih h

/-- The row of FX1E: VF only under the strap (43_index_memory.md R101). -/
theorem State.mayWrite_addI (s : State) (x : RegIdx) :
    s.mayWrite (.addI x) = [.result, .index] ++ if s.cfg.addISetsVf then [.v regF] else [] := by
  simp only [State.mayWrite]
  split
  · rfl
  · rfl

/-- DXYN: the rows drawn and the flag stand, whether or not the sprite runs off memory (44_display.md R108). -/
theorem ExecCase.of_execDrw (x y : RegIdx) (n : Nibble) (s : State) :
    ExecCase (.drw x y n) s (execDrw x y n s) := by
  cases hr : drawRows s.cfg s.mem s.base (s.startCol x) (s.startRow y) n.toNat 0 (s.disp, false) with
  | mk cv bad =>
    have hwf : s.cfg.legal → Display.wf s.cfg s.disp → Display.wf s.cfg cv.1 := fun hc hd => by
      simpa only [hr] using drawRows_wf (cv := (s.disp, false)) hc s.mem s.base (s.startCol x) (s.startRow y)
        n.toNat 0 hd
    have hbad : ∀ a, bad = some a → 15 < a := fun a ha =>
      drawRows_bad_gt ((congrArg Prod.snd hr).trans ha)
    have hu : Update (.drw x y n) s ((s.setDisp cv.1).setFlag cv.2) :=
      (Update.one (s.setDisp_frame cv.1) (.setDisp hwf) (by simp [State.mayWrite]) (by simp)).andThen
        (State.setFlag_frame _ cv.2) (.of_eq rfl rfl rfl rfl) (by simp [State.mayWrite]) (by simp)
    simp only [execDrw, hr]
    exact .of_failOr hu (by simp [State.mayWrite]) hbad (.of_renderEnd hu (.inr ⟨x, y, n, rfl⟩))

/-- Everything one instruction can do. -/
theorem exec_cases (i : Instr) (s : State) : ExecCase i s (exec i s) := by
  cases i with
  | cls =>
    refine .of_renderEnd (.one (s.setDisp_frame []) (.setDisp fun _ _ => Display.wf_nil _) ?_ ?_) (.inl rfl)
    · simp [State.mayWrite]
    · simp
  | drw x y n => exact ExecCase.of_execDrw x y n s
  | ret =>
    cases hs : s.stack with
    | nil =>
      simp only [exec, execRet, State.pop_nil hs]
      exact .underflowed rfl
    | cons w rest =>
      have hform : KeepsForm s { s with stack := rest } := .setStack fun h => by
        rw [hs] at h
        exact Nat.le_of_succ_le h
      simp only [exec, execRet, State.pop_cons hs]
      exact .completed ((Update.one (s.setStack_frame rest) hform (by simp [State.mayWrite]) (by simp)).andThen
        (State.setPc_frame _ w) (.of_eq rfl rfl rfl rfl) (by simp [State.mayWrite]) (by simp))
  | call nnn =>
    by_cases hs : s.stack.length < 16
    · have hform : KeepsForm s { s with stack := s.pc :: s.stack } := .setStack fun _ => hs
      simp only [exec, execCall, State.push_of_room hs]
      exact .completed ((Update.one (s.setStack_frame _) hform (by simp [State.mayWrite]) (by simp)).andThen
        (State.setPc_frame _ _) (.of_eq rfl rfl rfl rfl) (by simp [State.mayWrite]) (by simp))
    · simp only [exec, execCall, State.push_of_full (Nat.not_lt.1 hs)]
      exact .overflowed nnn rfl
  | sys => exact .completed (.refl _ s)
  | jp | jpOff =>
    exact .completed (.one (s.setPc_frame _) (.of_eq rfl rfl rfl rfl) (by simp [State.mayWrite]) (by simp))
  | seImm | sneImm | seReg | sneReg => exact .completed (.skipIf s _ (by simp [State.mayWrite]))
  | ldImm | addImm | ldReg | orReg | andReg | xorReg | getDt =>
    exact .completed (.one (s.setV_frame _ _) (.of_eq rfl rfl rfl rfl) (by simp [State.mayWrite]) (by simp))
  | addReg =>
    exact .completed (.one ((s.setV_frame _ _).append (State.setFlag_frame _ _)) (.of_eq rfl rfl rfl rfl)
      (by simp [State.mayWrite]) (by simp))
  | sub | shr | subn | shl =>
    exact .completed (.one ((s.setFlag_frame _).append (State.setV_frame _ _ _)) (.of_eq rfl rfl rfl rfl)
      (by simp [State.mayWrite]) (by simp))
  | rnd =>
    exact .completed (.one (s.drawn_frame.append (State.setV_frame _ _ _)) (.of_eq rfl rfl rfl rfl)
      (by simp [State.mayWrite]) (by simp))
  | ldI | ldF =>
    exact .completed (.one (s.setIndex_frame _) (.of_eq rfl rfl rfl rfl) (by simp [State.mayWrite]) (by simp))
  | addI x =>
    have hu : Update (.addI x) s (s.setIndex (s.index + toWord (s.getV x))) :=
      .one (s.setIndex_frame _) (.of_eq rfl rfl rfl rfl) (by simp [State.mayWrite_addI]) (by simp)
    by_cases hflag : s.cfg.addISetsVf = true
    · simp only [exec, execAddI, hflag, if_true]
      exact .completed (hu.andThen (State.setFlag_frame _ _) (.of_eq rfl rfl rfl rfl)
        (by simp [State.mayWrite_addI, hflag]) (by simp))
    · simp only [exec, execAddI, hflag]
      exact .completed hu
  | bcd x =>
    have hu : Update (.bcd x) s (s.setMem (Memory.store s.mem s.base (digits (s.getV x))).1) :=
      .one (s.store_frame (.inl (length_digits _).le)) (.setMem_store s s.base _)
        (by simp +contextual [State.mayWrite]) (by simp [State.bytesFromIndex])
    exact .of_failOr hu (by simp [State.mayWrite]) (fun _ => Memory.store_bad_gt) (.completed hu)
  | storeRegs x =>
    have hu : Update (.storeRegs x) s (s.setMem (Memory.store s.mem s.base (s.firstRegs x)).1) :=
      .one (s.store_frame (.inl (s.length_firstRegs x).le)) (.setMem_store s s.base _)
        (by simp +contextual [State.mayWrite]) (by simp [State.bytesFromIndex])
    have hx : Update (.storeRegs x) s _ := hu.stepIndex x (by simp +contextual [State.mayWrite])
    exact .of_failOr (done := fun t => complete (t.stepIndex x)) hu (by simp [State.mayWrite])
      (fun _ => Memory.store_bad_gt) (.completed hx)
  | loadRegs x =>
    have hu : Update (.loadRegs x) s (s.fill (Memory.load s.mem s.base (x.val + 1)).1) :=
      .one (s.fill_load_frame x) (.of_eq rfl rfl rfl rfl) (by simp +contextual [State.mayWrite])
        (by simp [regsUpTo])
    have hx : Update (.loadRegs x) s _ := hu.stepIndex x (by simp +contextual [State.mayWrite])
    exact .of_failOr (done := fun t => complete (t.stepIndex x)) hu (by simp [State.mayWrite])
      (fun _ => Memory.load_bad_gt) (.completed hx)
  | skp | sknp =>
    simp only [exec, execSkp, execSknp]
    split
    · exact .halted (.refl _ s) ‹_› (by simp [State.mayWrite])
    · exact .completed (.skipIf s _ (by simp [State.mayWrite]))
  | setDt =>
    exact .completed (.one (s.timerSet_frame .delay _) (.of_eq rfl rfl rfl rfl) (by simp [State.mayWrite])
      (by simp [Timer.part]))
  | setSt =>
    exact .completed (.one (s.timerSet_frame .sound _) (.of_eq rfl rfl rfl rfl) (by simp [State.mayWrite])
      (by simp [Timer.part]))
  | waitKey x =>
    simp only [exec, execWaitKey]
    split
    · exact .delivered x _ rfl
    · exact .cancelled x rfl
    · exact .waiting x rfl

/-! ### What every instruction does -/

theorem State.finish_frame (s : State) : ChangesOnly [.result] s s.finish := (ChangesOnly.refl [] s).finish

/-- Every instruction answers a next state. -/
theorem ExecCase.next {i : Instr} {s : State} {o : Host.Outcome State Fault Refusal} (h : ExecCase i s o) :
    ∃ t, o = .next t := by
  cases h with
  | _ => exact ⟨_, rfl⟩

/-- The reply belongs to every row. -/
theorem State.result_mem_mayWrite (s : State) (i : Instr) : Part.result ∈ s.mayWrite i := by
  cases i with
  | addI => simp [State.mayWrite_addI]
  | _ => simp [State.mayWrite]

/-- RUN belongs to the rows of the instructions that can meet a BoundsViolation (60_exceptions.md R122). -/
theorem State.bounds_of_run_mem {s : State} {i : Instr} (h : Part.run ∈ s.mayWrite i) :
    (∃ x, i = .bcd x) ∨ (∃ x, i = .storeRegs x) ∨ (∃ x, i = .loadRegs x) ∨ (∃ x y n, i = .drw x y n) ∨
      (∃ x, i = .skp x) ∨ (∃ x, i = .sknp x) := by
  cases i with
  | bcd | storeRegs | loadRegs | drw | skp | sknp => simp
  | addI => simp [State.mayWrite_addI] at h
  | _ => simp [State.mayWrite] at h

/-- The frame of an instruction, however it ends. -/
theorem ExecCase.frame {i : Instr} {s t : State} (h : ExecCase i s (.next t)) : ChangesOnly (s.mayWrite i) s t := by
  have hres := s.result_mem_mayWrite i
  cases h with
  | @completed u hu => exact hu.frame.trans (u.finish_frame.mono (by simpa using hres))
  | overflowed | underflowed => exact (s.raise_frame_of_not_fatal rfl).mono (by simpa using hres)
  | @halted u a hu ha hi => exact hu.frame.trans ((u.raise_frame _).mono (by simp [hres, hi]))
  | delivered x k hi =>
    subst hi
    exact (s.dropMove_frame.append (s.dropMove.deliver_frame x k)).mono (by simp [State.mayWrite])
  | cancelled x hi =>
    subst hi
    exact (s.dropMove_frame.append s.dropMove.cancelWait_frame).mono (by simp [State.mayWrite])
  | waiting x hi =>
    subst hi
    exact (s.block_frame _).mono (by simp [State.mayWrite])
  | @rendering u hu hi =>
    refine hu.frame.trans ((u.block_frame _).mono ?_)
    rcases hi with rfl | ⟨x, y, n, rfl⟩
    · simp [State.mayWrite]
    · simp [State.mayWrite]

/-- Every instruction keeps the straps, the canonical forms and the bound of the stack. -/
theorem ExecCase.keepsForm {i : Instr} {s t : State} (h : ExecCase i s (.next t)) : KeepsForm s t := by
  cases h with
  | completed hu | halted hu | rendering hu => exact hu.form.trans (.of_eq rfl rfl rfl rfl)
  | _ => exact .of_eq rfl rfl rfl rfl

/-- Settles O20: the row holds the writes an instruction makes before its end, and those of its end. -/
theorem instructionsWriteOnlyTheirRow : Obligations.InstructionsWriteOnlyTheirRow :=
  fun i s _ h => (h ▸ exec_cases i s).frame

/-- Settles O21: RUN and the reply are as they were until the end of an instruction, and each end is one of the
listed ones. -/
theorem errorsComeFromTheirInstructions : Obligations.ErrorsComeFromTheirInstructions := by
  intro i s
  obtain ⟨t, ht⟩ := (exec_cases i s).next
  have h : ExecCase i s (.next t) := ht ▸ exec_cases i s
  refine ⟨t, ht, ?_⟩
  cases h with
  | completed hu => exact .inl ⟨rfl, hu.run⟩
  | overflowed nnn hi => exact .inr (.inl ⟨rfl, ⟨nnn, hi⟩, rfl⟩)
  | underflowed hi => exact .inr (.inr (.inl ⟨rfl, hi, rfl⟩))
  | cancelled x hi => exact .inr (.inr (.inr (.inl ⟨rfl, ⟨x, hi⟩, rfl⟩)))
  | waiting x hi => exact .inr (.inr (.inr (.inr (.inl ⟨rfl, ⟨x, hi, rfl⟩, rfl⟩))))
  | rendering hu hi => exact .inr (.inr (.inr (.inr (.inr (.inl ⟨hu.result, hi, rfl, hu.run⟩)))))
  | @halted u a hu ha hi =>
    exact .inr (.inr (.inr (.inr (.inr (.inr ⟨⟨a, ha, rfl⟩, rfl, State.bounds_of_run_mem hi⟩)))))
  | delivered x k hi => exact .inl ⟨rfl, rfl⟩

end Sys2Proof.Machine
end

section
/-! PROOF. The word of a decoded instruction, the words without one, and the statements about encoding
(30_encoding.md). -/

namespace Sys2Proof

/-! ### A word is what its fields make -/

theorem wordNNN_of_fields {w : Word} {c : Nibble} (hc : (fieldC w).toNat = c.toNat) : wordNNN c (fieldNNN w) = w := by
  apply BitVec.eq_of_toNat_eq
  rw [wordNNN_toNat, ← hc, fieldC_toNat, fieldNNN_toNat]
  omega

theorem wordXNN_of_fields {w : Word} {c : Nibble} {nn : Byte} (hc : (fieldC w).toNat = c.toNat)
    (hn : (fieldNN w).toNat = nn.toNat) : wordXNN c (fieldX w) nn = w := by
  apply BitVec.eq_of_toNat_eq
  rw [wordXNN_toNat, ← hc, ← hn, fieldC_toNat, fieldX_val, fieldNN_toNat]
  omega

theorem wordXYN_of_fields {w : Word} {c n : Nibble} (hc : (fieldC w).toNat = c.toNat)
    (hn : (fieldN w).toNat = n.toNat) : wordXYN c (fieldX w) (fieldY w) n = w := by
  apply BitVec.eq_of_toNat_eq
  rw [wordXYN_toNat, ← hc, ← hn, fieldC_toNat, fieldX_val, fieldY_val, fieldN_toNat]
  omega

/-! ### The encoding of a decoded instruction, group by group -/

theorem encode_of_decodeGroup0 {w : Word} {i : Instr} (hc : (fieldC w).toNat = 0) (h : decodeGroup0 w = .ok i) :
    i.wellFormed = true ∧ encode i = w := by
  have hw : wordNNN 0x0#4 (fieldNNN w) = w := wordNNN_of_fields hc
  unfold decodeGroup0 at h
  split at h
  · next hcls => cases h; exact ⟨rfl, hcls.symm⟩
  · next hcls =>
    split at h
    · next hret => cases h; exact ⟨rfl, hret.symm⟩
    · next hret =>
      cases h
      have h0 : fieldNNN w ≠ 0x0E0#12 := fun e => hcls (by rw [← hw, e]; rfl)
      have h1 : fieldNNN w ≠ 0x0EE#12 := fun e => hret (by rw [← hw, e]; rfl)
      exact ⟨by simp [Instr.wellFormed, h0, h1], hw⟩

theorem encode_of_decodeGroup8 {w : Word} {i : Instr} (hc : (fieldC w).toNat = 8) (h : decodeGroup8 w = .ok i) :
    i.wellFormed = true ∧ encode i = w := by
  unfold decodeGroup8 at h
  split at h
  case h_10 => cases h
  all_goals
    next hn => cases h; exact ⟨rfl, wordXYN_of_fields hc hn⟩

theorem encode_of_decodeGroupE {w : Word} {i : Instr} (hc : (fieldC w).toNat = 14) (h : decodeGroupE w = .ok i) :
    i.wellFormed = true ∧ encode i = w := by
  unfold decodeGroupE at h
  split at h
  case h_3 => cases h
  all_goals
    next hn => cases h; exact ⟨rfl, wordXNN_of_fields hc hn⟩

theorem encode_of_decodeGroupF {w : Word} {i : Instr} (hc : (fieldC w).toNat = 15) (h : decodeGroupF w = .ok i) :
    i.wellFormed = true ∧ encode i = w := by
  unfold decodeGroupF at h
  split at h
  case h_10 => cases h
  all_goals
    next hn => cases h; exact ⟨rfl, wordXNN_of_fields hc hn⟩

/-- A decoded instruction is well-formed, and its encoding is the word. -/
theorem encode_of_decodeWord {w : Word} {i : Instr} (h : decodeWord w = .ok i) :
    i.wellFormed = true ∧ encode i = w := by
  unfold decodeWord at h
  split at h
  case h_1 hc => exact encode_of_decodeGroup0 hc h
  case h_9 hc => exact encode_of_decodeGroup8 hc h
  case h_15 hc => exact encode_of_decodeGroupE hc h
  case h_16 hc => exact encode_of_decodeGroupF hc h
  case h_17 => cases h
  case h_6 | h_10 =>
    split at h
    · next hc hn => cases h; exact ⟨rfl, wordXYN_of_fields hc (congrArg BitVec.toNat hn)⟩
    · cases h
  case h_2 | h_3 | h_11 | h_12 =>
    next hc => cases h; exact ⟨rfl, wordNNN_of_fields hc⟩
  case h_4 | h_5 | h_7 | h_8 | h_13 =>
    next hc => cases h; exact ⟨rfl, wordXNN_of_fields hc rfl⟩
  case h_14 =>
    next hc => cases h; exact ⟨rfl, wordXYN_of_fields hc rfl⟩

/-! ### The words without an instruction, group by group -/

/-- `o` is the refusal of `w` by name when `p` holds, and an instruction otherwise. -/
def RefusedIff (o : Except DecodeError Instr) (w : Word) (p : Prop) : Prop :=
  (p → o = .error (.unsupported w)) ∧ (¬ p → ∃ i, o = .ok i)

theorem RefusedIff.of_ok {w : Word} {p : Prop} (i : Instr) (h : ¬ p) : RefusedIff (.ok i) w p :=
  ⟨fun hp => absurd hp h, fun _ => ⟨i, rfl⟩⟩

theorem RefusedIff.of_unsupported {w : Word} {p : Prop} (h : p) : RefusedIff (.error (.unsupported w)) w p :=
  ⟨fun _ => rfl, fun hp => absurd h hp⟩

theorem RefusedIff.congr {o : Except DecodeError Instr} {w : Word} {p q : Prop} (h : RefusedIff o w p) (hpq : p ↔ q) :
    RefusedIff o w q := propext hpq ▸ h

theorem RefusedIff.iff {o : Except DecodeError Instr} {w : Word} {p : Prop} (h : RefusedIff o w p) :
    ((∃ e, o = .error e) ↔ o = .error (.unsupported w)) ∧ (o = .error (.unsupported w) ↔ p) := by
  by_cases hp : p
  · simp [h.1 hp, hp]
  · obtain ⟨i, hi⟩ := h.2 hp
    simp [hi, hp]

/-- Group 0 has an instruction for every word. -/
theorem decodeGroup0_refusedIff {w : Word} {p : Prop} (hp : ¬ p) : RefusedIff (decodeGroup0 w) w p := by
  unfold decodeGroup0
  split
  · exact .of_ok _ hp
  · split
    · exact .of_ok _ hp
    · exact .of_ok _ hp

theorem decodeGroup8_refusedIff (w : Word) :
    RefusedIff (decodeGroup8 w) w (w.toNat % 16 ∈ [8, 9, 10, 11, 12, 13, 15]) := by
  have hlt := (fieldN w).isLt
  rw [← fieldN_toNat]
  unfold decodeGroup8
  split
  case h_10 =>
    refine .of_unsupported ?_
    simp only [imp_false] at *
    simp only [List.mem_cons, List.not_mem_nil, or_false]
    omega
  all_goals
    next hn => exact .of_ok _ (by simp [hn])

theorem decodeGroupE_refusedIff (w : Word) : RefusedIff (decodeGroupE w) w (w.toNat % 256 ∉ [0x9E, 0xA1]) := by
  rw [← fieldNN_toNat]
  unfold decodeGroupE
  split
  case h_3 h1 h2 => exact .of_unsupported (by simpa using ⟨h1, h2⟩)
  all_goals
    next hn => exact .of_ok _ (by simp [hn])

theorem decodeGroupF_refusedIff (w : Word) :
    RefusedIff (decodeGroupF w) w
      (w.toNat % 256 ∉ [0x07, 0x0A, 0x15, 0x18, 0x1E, 0x29, 0x33, 0x55, 0x65]) := by
  rw [← fieldNN_toNat]
  unfold decodeGroupF
  split
  case h_10 h1 h2 h3 h4 h5 h6 h7 h8 h9 =>
    exact .of_unsupported (by simpa using ⟨h1, h2, h3, h4, h5, h6, h7, h8, h9⟩)
  all_goals
    next hn => exact .of_ok _ (by simp [hn])

/-- The two skips on registers need a low nibble of 0. -/
theorem skipReg_refusedIff (w : Word) (i : Instr) :
    RefusedIff (if fieldN w = 0#4 then .ok i else .error (.unsupported w)) w (w.toNat % 16 ≠ 0) := by
  rw [← fieldN_toNat]
  split
  · next hn => exact .of_ok _ (by simp [hn])
  · next hn => exact .of_unsupported fun h => hn (BitVec.eq_of_toNat_eq h)

/-! ### The obligations -/

/-- Settles O1: each word is decoded by evaluation. -/
theorem specWordsDecode : Obligations.SpecWordsDecode := by
  unfold Obligations.SpecWordsDecode
  decide

/-- Settles O2: the two bytes are the word of the instruction again, and decoding inverts encoding on words. -/
theorem decodeInvertsEncode : Obligations.DecodeInvertsEncode := by
  intro i rest h
  rw [encodeBytes, List.cons_append, List.cons_append, List.nil_append, decode_two, wordOfBytes_split,
    decodeWord_encode h]

/-- Settles O3: a decoded instruction carries the fields of its word, and its row fixes the other bits. -/
theorem decodedWordIsItsEncoding : Obligations.DecodedWordIsItsEncoding := fun _ _ => encode_of_decodeWord

/-- Settles O4, group by group. -/
theorem unsupportedWordsAreExactly : Obligations.UnsupportedWordsAreExactly := by
  intro w
  apply RefusedIff.iff
  rw [← fieldC_toNat]
  unfold decodeWord
  split
  case h_1 hc => exact decodeGroup0_refusedIff (by simp [hc])
  case h_6 hc => exact (skipReg_refusedIff w _).congr (by simp [hc])
  case h_9 hc => exact (decodeGroup8_refusedIff w).congr (by simp [hc])
  case h_10 hc => exact (skipReg_refusedIff w _).congr (by simp [hc])
  case h_15 hc => exact (decodeGroupE_refusedIff w).congr (by simp [hc])
  case h_16 hc => exact (decodeGroupF_refusedIff w).congr (by simp [hc])
  case h_17 =>
    have hlt := (fieldC w).isLt
    simp only [imp_false] at *
    omega
  all_goals
    next hc => exact .of_ok _ (by simp [hc])

end Sys2Proof
end

section
/-! PROOF. What the next step is, move by move, and the statements about the `Cycle` operation (40_cycle.md). -/

namespace Sys2Proof.Machine

/-! ### The next step -/

/-- No agent has a step after `Teardown`. -/
theorem step_of_tornDown {s : State} (h : s.tornDown = true) : step s = .fault .tornDown := by simp [step, h]

/-- With a move scheduled, the step is that move. -/
theorem step_of_move {s : State} {m : Move} {rest : List Move} (htd : s.tornDown = false) (hm : s.moves = m :: rest) :
    step s = nextMove m s := by simp [step, htd, hm]

theorem step_of_move_free {s : State} {m : Move} {rest : List Move} (htd : s.tornDown = false) (hw : s.wait = none)
    (hm : s.moves = m :: rest) : step s = moveFree m s.dropMove := by rw [step_of_move htd hm, nextMove, hw]

theorem step_of_move_inKeyWait {s : State} {x : RegIdx} {m : Move} {rest : List Move} (htd : s.tornDown = false)
    (hw : s.wait = some (.key x)) (hm : s.moves = m :: rest) : step s = moveInKeyWait x m s.dropMove := by
  rw [step_of_move htd hm, nextMove, hw]

theorem step_of_move_inRender {s : State} {m : Move} {rest : List Move} (htd : s.tornDown = false)
    (hw : s.wait = some .render) (hm : s.moves = m :: rest) : step s = moveInRender m s.dropMove := by
  rw [step_of_move htd hm, nextMove, hw]

/-- A blocked executor with no move scheduled stays as it is. -/
theorem step_of_blocked_idle {s : State} {w : Wait} (htd : s.tornDown = false) (hw : s.wait = some w)
    (hm : s.moves = []) : step s = .next s := by simp [step, htd, hm, defaultMove, hw]

/-- A scheduled `Cycle` and the default one are one step. -/
theorem step_of_cyclesNext {s : State} (h : s.cyclesNext) : step s = cycle s.dropMove := by
  obtain ⟨htd, hw, hm⟩ := h
  cases hs : s.moves with
  | nil => simp [step, htd, hs, defaultMove, hw, State.dropMove_of_nil hs]
  | cons m rest =>
    obtain rfl : m = .cycle := by simpa [hs] using hm
    exact step_of_move_free htd hw hs

/-- A tick is a step in any wait (60_exceptions.md R134, R143). -/
theorem step_of_tick {s : State} {T : Timer} {rest : List Move} (htd : s.tornDown = false)
    (hm : s.moves = .tick T :: rest) : step s = .next (s.dropMove.tick T) := by
  cases hw : s.wait with
  | none => exact step_of_move_free htd hw hm
  | some w =>
    cases w with
    | key x => exact step_of_move_inKeyWait htd hw hm
    | render => exact step_of_move_inRender htd hw hm

/-- So is a change of the keypad lines (60_exceptions.md R138). -/
theorem step_of_keys {s : State} {d : BitVec 16} {rest : List Move} (htd : s.tornDown = false)
    (hm : s.moves = .keys d :: rest) : step s = .next { s.dropMove with keypad := d } := by
  cases hw : s.wait with
  | none => exact step_of_move_free htd hw hm
  | some w =>
    cases w with
    | key x => exact step_of_move_inKeyWait htd hw hm
    | render => exact step_of_move_inRender htd hw hm

/-! ### The `Cycle` -/

/-- A `Cycle` runs the two bytes of the word it fetches. -/
theorem step_of_fetchesNext {s : State} {w : Word} (h : s.fetchesNext w) :
    ∃ hi lo, wordOfBytes hi lo = w ∧ step s = runBytes hi lo s.atExecute := by
  obtain ⟨hc, hr, hp, hw⟩ := h
  refine ⟨_, _, BitVec.eq_of_toNat_eq ((wordOfBytes_toNat _ _).trans hw.symm), ?_⟩
  have hf : s.dropMove.fetch = .ok (Memory.get s.mem s.pc.toNat, Memory.get s.mem (s.pc.toNat + 1)) := by
    rw [State.fetch_eq, if_neg (by simpa using Nat.lt_succ_of_le hp)]
    rfl
  simp only [step_of_cyclesNext hc, cycle, State.dropMove_run, hr, hf, State.atExecute_eq]

/-- A word without an instruction reports itself. -/
theorem step_of_unsupported {s : State} {w : Word} {e : DecodeError} (h : s.fetchesNext w)
    (he : decodeWord w = .error e) : step s = .next (s.atExecute.raise (.unsupportedOpcode w)) := by
  obtain ⟨hi, lo, rfl, hs⟩ := step_of_fetchesNext h
  simp only [hs, runBytes_eq, he]

/-- A fetch above 4094 raises (40_cycle.md R66). -/
theorem step_of_fetch_above {s : State} (hc : s.cyclesNext) (hr : s.run = .running) (hp : 4095 ≤ s.pc.toNat) :
    step s = .next (s.dropMove.raise (.boundsViolation (if s.pc.toNat = 4095 then 4096 else s.pc.toNat))) := by
  have hf : s.dropMove.fetch = .error (if s.pc.toNat = 4095 then 4096 else s.pc.toNat) := by
    rw [State.fetch_eq, if_pos (by simpa using hp)]
    rfl
  simp only [step_of_cyclesNext hc, cycle, State.dropMove_run, hr, hf, fail_eq]

/-! ### A placed word -/

theorem State.fetchSite_le (s : State) : s.fetchSite.toNat ≤ 4094 := by
  unfold State.fetchSite
  split
  · next h => exact Nat.le_of_lt_succ h
  · decide

theorem State.placed_highByte (s : State) (w : Word) :
    Memory.get (s.placed w).mem s.fetchSite.toNat = highByte w :=
  Memory.get_store_inside (k := 0) _ (by simp) (Nat.le_succ_of_le s.fetchSite_le)

theorem State.placed_lowByte (s : State) (w : Word) :
    Memory.get (s.placed w).mem (s.fetchSite.toNat + 1) = lowByte w :=
  Memory.get_store_inside (k := 1) _ (by simp) (Nat.succ_le_succ s.fetchSite_le)

theorem State.placed_otherByte (s : State) (w : Word) {a : Nat} (h0 : a ≠ s.fetchSite.toNat)
    (h1 : a ≠ s.fetchSite.toNat + 1) : Memory.get (s.placed w).mem a = Memory.get s.mem a :=
  Memory.get_store_outside _ (by simp only [List.length_cons, List.length_nil]; omega)

/-- The next step fetches the placed word (log 4). -/
theorem State.placed_fetchesNext (s : State) (w : Word) : (s.placed w).fetchesNext w := by
  refine ⟨⟨rfl, rfl, .inr rfl⟩, rfl, s.fetchSite_le, ?_⟩
  have hpc : (s.placed w).pc = s.fetchSite := rfl
  rw [hpc, s.placed_highByte, s.placed_lowByte, ← wordOfBytes_toNat, wordOfBytes_split]

theorem decodeWord_tableWord {n w : Nat} {i : Instr} (h : decodeTableWord n w = some i) :
    decodeWord (tableWord n w) = .ok i := by
  rw [decodeTableWord, decode_two, wordOfBytes_split] at h
  cases hd : decodeWord (tableWord n w) with
  | ok j => simpa [hd] using h
  | error e => simp [hd] at h

/-! ### The obligations -/

/-- Settles O5: the fetched bytes decode to the instruction. -/
theorem stepRunsDecodedInstruction : Obligations.StepRunsDecodedInstruction := by
  intro s i ⟨w, hw, hd⟩
  obtain ⟨hi, lo, rfl, hs⟩ := step_of_fetchesNext hw
  simp only [hs, runBytes_eq, hd]

/-- Settles O6: the fetch raises before PC moves. -/
theorem fetchAboveMemoryHalts : Obligations.FetchAboveMemoryHalts := by
  intro s hc hr hp
  exact ⟨_, step_of_fetch_above hc hr hp, rfl, rfl, rfl,
    (s.dropMove_frame.append (s.dropMove.raise_frame _)).mono (by simp)⟩

/-- Settles O7: the error is not fatal, and it is raised after PC has moved. -/
theorem unsupportedWordIsReported : Obligations.UnsupportedWordIsReported := by
  intro s w e hw he
  exact ⟨_, step_of_unsupported hw he, rfl, rfl, rfl,
    (s.atExecute_frame.append (State.raise_frame_of_not_fatal _ rfl)).mono (by simp)⟩

/-- Settles O8: RUN is looked at before the fetch. -/
theorem haltedCoreRefusesCycle : Obligations.HaltedCoreRefusesCycle := by
  intro s hc hr
  rw [step_of_cyclesNext hc, cycle, State.dropMove_run, hr]

/-- Settles O9: the word is the jump to PC's own 12 bits, which PC takes again. -/
theorem jumpToSelfIsIdle : Obligations.JumpToSelfIsIdle := by
  intro s w hw hself
  have hp : s.pc.toNat ≤ 4094 := hw.2.2.1
  have hn : (BitVec.ofNat 12 s.pc.toNat).toNat = s.pc.toNat := Nat.mod_eq_of_lt (by omega)
  have he : encode (.jp (BitVec.ofNat 12 s.pc.toNat)) = w :=
    BitVec.eq_of_toNat_eq (by rw [encode, wordNNN_toNat, hn, hself]; rfl)
  have hd : decodeWord w = .ok (.jp (BitVec.ofNat 12 s.pc.toNat)) := he ▸ decodeWord_encode rfl
  have hpc : addrWord (BitVec.ofNat 12 s.pc.toNat) = s.pc :=
    BitVec.eq_of_toNat_eq ((addrWord_toNat _).trans hn)
  rw [stepRunsDecodedInstruction s _ ⟨w, hw, hd⟩]
  simp only [exec, execJp, complete_eq, hpc]
  rfl

/-- Settles O10: the placed word is fetched, and placing it writes its two bytes and the state of a core that
takes a `Cycle`. -/
theorem placedWordRunsNext : Obligations.PlacedWordRunsNext := by
  intro s w i h
  have hw := s.placed_fetchesNext (tableWord 16 w)
  refine ⟨_, stepRunsDecodedInstruction _ i ⟨_, hw, decodeWord_tableWord h⟩, rfl, rfl, rfl, rfl, ?_, ?_⟩
  · have hword : (tableWord 16 w).toNat = w % 65536 := by simp [tableWord]
    exact hw.2.2.2.symm.trans hword
  · intro p hp
    cases p with
    | mem a =>
      simp only [List.mem_cons, Part.mem.injEq, reduceCtorEq, List.not_mem_nil, false_or, or_false, not_or] at hp
      exact s.placed_otherByte _ hp.1 hp.2
    | pc | run | wait | tornDown => simp at hp
    | _ => rfl

end Sys2Proof.Machine
end

section
/-! PROOF. `Load`, and the statements about every step of the machine (10_state.md, 70_reset_and_hazards.md,
60_exceptions.md). -/

namespace Sys2Proof.Machine

/-! ### `Load` -/

/-- A `Load` while no `Cycle` is in progress. -/
theorem step_of_load {s : State} {font prog : List Byte} {rest : List Move} (htd : s.tornDown = false)
    (hw : s.wait = none) (hm : s.moves = .load font prog :: rest) : step s = loadCore font prog s.dropMove :=
  step_of_move_free htd hw hm

theorem step_of_allowed_load {s : State} {font prog : List Byte} {rest : List Move} (htd : s.tornDown = false)
    (hw : s.wait = none) (hm : s.moves = .load font prog :: rest) (hl : loadAllowed s.cfg font prog) :
    step s = .next (s.dropMove.loaded font prog) := by
  rw [step_of_load htd hw hm, loadCore_of_allowed (s := s.dropMove) hl]

/-- Memory after a `Load` the host may make: the program, below it the font, and 0 (70_reset_and_hazards.md R151). -/
theorem get_loadMemory {fb : Nat} {font prog : List Byte} (hfb : fb ≤ 4016) (hf : font.length = 80)
    (hp : prog.length ≤ 3584) (a : Nat) :
    Memory.get (loadMemory fb font prog) a =
      if 0x200 ≤ a ∧ a < 0x200 + prog.length then prog.getD (a - 0x200) 0#8
      else if fb ≤ a ∧ a < fb + 80 then font.getD (a - fb) 0#8
      else 0#8 := by
  unfold loadMemory
  by_cases hprog : 0x200 ≤ a ∧ a < 0x200 + prog.length
  · obtain ⟨k, rfl⟩ := Nat.exists_eq_add_of_le hprog.1
    rw [if_pos hprog, Nat.add_sub_cancel_left]
    exact Memory.get_store_inside _ (by omega) (by unfold entryPoint; omega)
  · rw [if_neg hprog, Memory.get_store_outside _ (by unfold entryPoint; omega)]
    by_cases hfont : fb ≤ a ∧ a < fb + 80
    · obtain ⟨k, rfl⟩ := Nat.exists_eq_add_of_le hfont.1
      rw [if_pos hfont, Nat.add_sub_cancel_left]
      exact Memory.get_store_inside _ (by omega) (by omega)
    · rw [if_neg hfont, Memory.get_store_outside _ (by omega), Memory.get_nil]

/-- The font overlaps the program where the two regions share an address (00_scope.md R8). -/
theorem fontClear_of_overlap {fb len a : Nat} (hf : fb ≤ a ∧ a < fb + 80) (hp : 0x200 ≤ a ∧ a < 0x200 + len) :
    fontClear fb len = false := by
  rw [fontClear, decide_eq_false_iff_not]
  unfold fontSize entryPoint
  omega

/-- The grounds of a refusal, in the order in which they are looked for (log 16). -/
theorem loadRefusal_of_loadError {c : Straps} {font prog : List Byte} (hp : 3584 < prog.length) :
    loadRefusal c font prog = some .loadError := if_pos hp

theorem loadRefusal_of_illegal {c : Straps} {font prog : List Byte} (hp : prog.length ≤ 3584) (hc : ¬ c.legal) :
    loadRefusal c font prog = some .configurationRefused := by
  unfold loadRefusal maxProgram
  rw [if_neg (Nat.not_lt.2 hp), if_pos hc]

theorem loadRefusal_of_font {c : Straps} {font prog : List Byte} (hp : prog.length ≤ 3584) (hc : c.legal)
    (hf : font.length ≠ 80 ∨ fontClear c.fontBaseAddress prog.length = false) :
    loadRefusal c font prog = some .fontRefused := by
  unfold loadRefusal maxProgram
  rw [if_neg (Nat.not_lt.2 hp), if_neg (not_not.2 hc)]
  exact if_pos hf

theorem KeepsForm.dropMove (s : State) : KeepsForm s s.dropMove := .of_eq rfl rfl rfl rfl

theorem KeepsForm.atExecute (s : State) : KeepsForm s s.atExecute := .of_eq rfl rfl rfl rfl

theorem KeepsForm.loaded (s : State) (font prog : List Byte) : KeepsForm s (s.loaded font prog) where
  cfg := rfl
  mem _ := Memory.wf_store (Memory.wf_store Memory.wf_nil _ _) _ _
  disp _ _ := Display.wf_nil _
  stack _ := Nat.zero_le _

theorem KeepsForm.loadRefused (s : State) (why : LoadRefusal) : KeepsForm s (s.loadRefused why) where
  cfg := rfl
  mem _ := s.loadRefused_mem_wf why
  disp _ _ := s.loadRefused_disp_wf why
  stack _ := s.loadRefused_stack_le why

/-! ### What every step keeps -/

/-- A `Cycle` comes next only where it is the first move scheduled. -/
theorem State.cyclesNext.head {s : State} (h : s.cyclesNext) {m : Move} (hm : s.moves.head? = some m) : m = .cycle := by
  obtain ⟨-, -, hn | hc⟩ := h
  · simp [hn] at hm
  · exact Option.some.inj (hm.symm.trans hc)

/-- Every step keeps the straps, the canonical forms and the bound of the stack. -/
theorem StepCase.keepsForm {s t : State} (h : StepCase s t) : KeepsForm s t := by
  cases h
  case executed i hi h => exact (KeepsForm.atExecute s).trans (h ▸ exec_cases i s.atExecute).keepsForm
  case loaded font prog hm hw hl h => exact h ▸ (KeepsForm.dropMove s).trans (.loaded s.dropMove font prog)
  case loadRefused font prog why hm hw hl h => exact h ▸ (KeepsForm.dropMove s).trans (.loadRefused s.dropMove why)
  case ticked T hm h =>
    subst h
    exact .of_eq (State.tick_cfg _ T) (State.tick_mem _ T) (State.tick_disp _ T) (State.tick_stack _ T)
  all_goals
    next h => subst h; exact .of_eq rfl rfl rfl rfl

/-- What went to the host says that the core has halted. -/
theorem haltReported_iff (r : Option Reply) :
    haltReported r = true ↔
      (∃ a, r = some (.error (.boundsViolation a))) ∨ ∃ why, r = some (.loadRefused why) := by
  unfold haltReported
  split
  · simp
  · simp
  · next h1 h2 =>
    refine ⟨fun h => (Bool.false_ne_true h).elim, ?_⟩
    rintro (⟨a, ha⟩ | ⟨why, hw⟩)
    · exact (h1 a ha).elim
    · exact (h2 why hw).elim

/-- How RUN, the wait and the reply stand in `t` after a step from `s` (10_state.md R19, 60_exceptions.md R121). -/
inductive Control (s t : State) : Prop where
  | running (hr : t.run = .running) (hrep : haltReported t.result = false)
      (hfrom : s.run = .running ∨ ∃ font prog, s.moves.head? = some (.load font prog))
  | halted (hr : t.run = .halted) (hw : t.wait = none) (hrep : s.run = .running → haltReported t.result = true)

/-- A step that leaves all three as they were. -/
theorem Control.of_same {s t : State} (hinv : s.Inv) (hr : t.run = s.run) (hw : t.wait = s.wait)
    (hres : t.result = s.result) : Control s t := by
  obtain ⟨-, -, -, -, hblocked, hreported⟩ := hinv
  cases hs : s.run with
  | running =>
    have hrep : haltReported s.result = false := Bool.eq_false_iff.2 fun h => by simp [hreported h] at hs
    exact .running (hr.trans hs) (hres ▸ hrep) (.inl hs)
  | halted =>
    have hwait : s.wait = none := by
      by_contra h
      simp [hblocked h] at hs
    exact .halted (hr.trans hs) (hw.trans hwait) fun h => by simp [h] at hs

/-- A step by which the running core answers `ok` or an error that is not fatal. -/
theorem Control.of_answered {s t : State} (hs : s.run = .running) (hr : t.run = s.run)
    (hrep : haltReported t.result = false) : Control s t := .running (hr.trans hs) hrep (.inl hs)

/-- An instruction of a core that is not blocked. -/
theorem ExecCase.control {i : Instr} {s t : State} (h : ExecCase i s (.next t)) (hs : s.run = .running)
    (hw : s.wait = none) (hrep : haltReported s.result = false) : Control s t := by
  cases h with
  | completed hu => exact .of_answered hs hu.run rfl
  | overflowed | underflowed | delivered | cancelled => exact .of_answered hs rfl rfl
  | halted hu ha hi => exact .halted rfl (hu.wait.trans hw) fun _ => rfl
  | waiting x hi => exact .of_answered hs rfl hrep
  | rendering hu hi => exact .of_answered hs hu.run ((congrArg haltReported hu.result).trans hrep)

/-- Every step from a state that meets the invariant. -/
theorem StepCase.control {s t : State} (h : StepCase s t) (hinv : s.Inv) : Control s t := by
  obtain ⟨-, -, -, -, hblocked, hreported⟩ := id hinv
  have hrep (hr : s.run = .running) : haltReported s.result = false :=
    Bool.eq_false_iff.2 fun h => by simp [hreported h] at hr
  cases h with
  | executed i hi h =>
    obtain ⟨w, ⟨⟨-, hw, -⟩, hr, -⟩, -⟩ := hi
    cases (h ▸ exec_cases i s.atExecute : ExecCase i s.atExecute (.next t)).control hr hw (hrep hr) with
    | running hr' hrep' => exact .running hr' hrep' (.inl hr)
    | halted hr' hw' hrep' => exact .halted hr' hw' hrep'
  | fetchFailed a hc hr hp ha h => exact h ▸ .halted rfl hc.2.1 fun _ => rfl
  | unsupported w e hw he h => exact h ▸ .of_answered hw.2.1 rfl rfl
  | idle hw hm h => subst h; exact .of_same hinv rfl rfl rfl
  | ticked T hm h => exact h ▸ .of_same hinv (State.tick_run _ T) (State.tick_wait _ T) (State.tick_result _ T)
  | keysChanged d hm h => exact h ▸ .of_same hinv rfl rfl rfl
  | pressIgnored k hm hw h => exact h ▸ .of_same hinv rfl rfl rfl
  | tornDown hm hw h => exact h ▸ .of_same hinv rfl rfl rfl
  | delivered x k hm hw h => exact h ▸ .of_answered (hblocked (by simp [hw])) rfl rfl
  | waitCancelled x hm hw h => exact h ▸ .of_answered (hblocked (by simp [hw])) rfl rfl
  | renderReturned hm hw h => exact h ▸ .of_answered (hblocked (by simp [hw])) rfl rfl
  | loaded font prog hm hw hl h => exact h ▸ .running rfl rfl (.inr ⟨font, prog, hm⟩)
  | loadRefused font prog why hm hw hl h => exact h ▸ .halted rfl hw fun _ => rfl

/-- A step by which the host makes a `Load` is that `Load`, accepted or refused. -/
theorem StepCase.run_of_load {s t : State} (h : StepCase s t) {font prog : List Byte}
    (hm : s.moves.head? = some (.load font prog)) : t.run = .running ↔ loadAllowed s.cfg font prog := by
  cases h with
  | executed i hi h =>
    obtain ⟨w, hw, -⟩ := hi
    cases hw.1.head hm
  | fetchFailed a hc => cases hc.head hm
  | unsupported w e hw => cases hw.1.head hm
  | idle hw hnil => simp [hnil] at hm
  | loaded font' prog' hm' hw hl h =>
    cases Option.some.inj (hm.symm.trans hm')
    simp [h, hl]
  | loadRefused font' prog' why hm' hw hl h =>
    cases Option.some.inj (hm.symm.trans hm')
    simp [h, ← loadRefusal_none_iff, hl]
  | ticked _ hm' | keysChanged _ hm' | pressIgnored _ hm' | delivered _ _ hm' | waitCancelled _ hm'
  | renderReturned hm' | tornDown hm' => cases hm.symm.trans hm'

/-! ### The timers -/

/-- The instruction that sets a timer to V[x] (45_keypad_timers.md R117, R118). -/
def Timer.setInstr : Timer → RegIdx → Instr
  | .delay, x => .setDt x
  | .sound, x => .setSt x

theorem Timer.exec_setInstr (T : Timer) (x : RegIdx) (s : State) :
    exec (T.setInstr x) s = .next (s.timerSet T (s.getV x)).finish := by
  cases T with
  | _ => rfl

/-- The two timers are two parts. -/
theorem Timer.part_inj {T T' : Timer} (h : T.part = T'.part) : T = T' := by
  cases T with
  | delay =>
    cases T' with
    | delay => rfl
    | sound => cases h
  | sound =>
    cases T' with
    | delay => cases h
    | sound => rfl

/-- Two states agree on a timer. -/
theorem agree_timer_iff (s t : State) (T : Timer) : Agree s t T.part ↔ t.timerGet T = s.timerGet T := by
  cases T with
  | _ => rfl

/-- A timer belongs to the row of no other instruction. -/
theorem Timer.eq_setInstr_of_mem {s : State} {T : Timer} {i : Instr} (h : T.part ∈ s.mayWrite i) :
    ∃ x, i = T.setInstr x := by
  cases T with
  | delay =>
    cases i with
    | setDt x => exact ⟨x, rfl⟩
    | addI => simp [State.mayWrite_addI, Timer.part] at h
    | _ => simp [State.mayWrite, State.bytesFromIndex, regsUpTo, Timer.part] at h
  | sound =>
    cases i with
    | setSt x => exact ⟨x, rfl⟩
    | addI => simp [State.mayWrite_addI, Timer.part] at h
    | _ => simp [State.mayWrite, State.bytesFromIndex, regsUpTo, Timer.part] at h

@[simp] theorem State.timerGet_timerSet_self (s : State) (T : Timer) (b : Byte) : (s.timerSet T b).timerGet T = b := by
  cases T with
  | _ => rfl

/-- A tick takes 1 from a value above 0 and leaves 0 at 0 (60_exceptions.md R134). -/
theorem State.tick_toNat (s : State) (T : Timer) : ((s.tick T).timerGet T).toNat = (s.timerGet T).toNat - 1 := by
  unfold State.tick
  split
  · next h => simp [h]
  · next h => simp only [timerGet_timerSet_self]; bv_omega

/-- How a timer can move in one step (60_exceptions.md section 7). -/
theorem StepCase.timer {s t : State} (h : StepCase s t) (T : Timer) :
    t.timerGet T = s.timerGet T ∨ (∃ x, s.executesNext (T.setInstr x) ∧ t.timerGet T = s.getV x) ∨
      (s.moves.head? = some (.tick T) ∧ 0 < (s.timerGet T).toNat ∧
        (t.timerGet T).toNat = (s.timerGet T).toNat - 1) ∨
      (∃ font prog, s.moves.head? = some (.load font prog) ∧ (loadAllowed s.cfg font prog → t.timerGet T = 0#8)) := by
  cases h
  case executed i hi h =>
    by_cases hT : T.part ∈ s.atExecute.mayWrite i
    · obtain ⟨x, rfl⟩ := Timer.eq_setInstr_of_mem hT
      rw [T.exec_setInstr, Host.Outcome.next.injEq] at h
      refine .inr (.inl ⟨x, hi, ?_⟩)
      subst h
      exact State.timerGet_timerSet_self _ T _
    · have hf := instructionsWriteOnlyTheirRow i s.atExecute t h T.part hT
      refine .inl (((agree_timer_iff _ _ T).1 hf).trans ?_)
      cases T with
      | _ => rfl
  case ticked T' hm h =>
    subst h
    have hval : s.dropMove.timerGet T = s.timerGet T := by
      cases T with
      | _ => rfl
    by_cases hT : T' = T
    · subst hT
      by_cases h0 : s.timerGet T' = 0#8
      · left
        rw [State.tick, hval, if_pos h0, hval]
      · refine .inr (.inr (.inl ⟨hm, ?_, by rw [State.tick_toNat, hval]⟩))
        bv_omega
    · have hpart : T.part ∉ [T'.part] := fun h => hT (Timer.part_inj (List.mem_singleton.1 h)).symm
      exact .inl (((agree_timer_iff _ _ T).1 (s.dropMove.tick_frame T' T.part hpart)).trans hval)
  case loaded font prog hm hw hl h =>
    refine .inr (.inr (.inr ⟨font, prog, hm, fun _ => ?_⟩))
    subst h
    cases T with
    | _ => rfl
  case loadRefused font prog why hm hw hl h =>
    refine .inr (.inr (.inr ⟨font, prog, hm, fun hall => ?_⟩))
    rw [(loadRefusal_none_iff ..).2 hall] at hl
    cases hl
  all_goals
    next h =>
    left
    subst h
    cases T with
    | _ => rfl

/-- A tick of either timer touches nothing else. -/
theorem step_tick_spec {s : State} {T : Timer} {rest : List Move} (htd : s.tornDown = false)
    (hm : s.moves = .tick T :: rest) :
    ∃ t, step s = .next t ∧ (t.timerGet T).toNat = (s.dropMove.timerGet T).toNat - 1 ∧ t.moves = rest ∧
      t.wait = s.wait ∧ ChangesOnly [T.part, .moves] s t := by
  refine ⟨_, step_of_tick htd hm, s.dropMove.tick_toNat T, by simp [hm], State.tick_wait _ T, ?_⟩
  exact (s.dropMove_frame.append (s.dropMove.tick_frame T)).mono (by simp +contextual)

/-! ### Key presses and `Teardown` -/

/-- The key delivered stands in its register (45_keypad_timers.md R115). -/
theorem State.deliver_getV_toNat (s : State) (x : RegIdx) (k : Nibble) : ((s.deliver x k).getV x).toNat = k.toNat :=
  (congrArg BitVec.toNat (s.getV_setV_self x (k.setWidth 8))).trans (BitVec.toNat_setWidth_of_le (by decide))

/-- No instruction tears the core down. -/
theorem State.tornDown_notMem_mayWrite (s : State) (i : Instr) : Part.tornDown ∉ s.mayWrite i := by
  cases i with
  | addI => simp [State.mayWrite_addI]
  | _ => simp [State.mayWrite, State.bytesFromIndex, regsUpTo]

/-- Only a `Teardown` sets its flag. -/
theorem StepCase.tornDown_of_set {s t : State} (h : StepCase s t) (hs : s.tornDown = false) (ht : t.tornDown = true) :
    s.moves.head? = some .teardown := by
  cases h
  case tornDown hm hw h => exact hm
  case executed i hi h =>
    have hf : t.tornDown = s.tornDown :=
      instructionsWriteOnlyTheirRow i s.atExecute t h .tornDown (State.tornDown_notMem_mayWrite _ i)
    cases ht.symm.trans (hf.trans hs)
  case ticked T hm h =>
    subst h
    cases ht.symm.trans ((State.tick_tornDown _ T).trans hs)
  all_goals
    next h =>
    subst h
    cases ht.symm.trans hs

/-! ### The obligations -/

/-- Settles O11: the fields of the reset state are those of the table. -/
theorem resetLeavesTheSpecValues : Obligations.ResetLeavesTheSpecValues :=
  ⟨fun x => by simp [State.reset, State.getV], rfl, rfl, rfl, rfl, rfl, rfl, fun _ _ => rfl, fun _ => rfl, rfl, rfl,
    rfl, rfl⟩

/-- Settles O12: the `Load` is accepted, and the program region is written last. -/
theorem loadPlacesFontAndProgram : Obligations.LoadPlacesFontAndProgram := by
  intro s font prog rest htd hw hm hl
  obtain ⟨⟨-, -, -, hfb⟩, hfont, hprog, -⟩ := id hl
  refine ⟨_, step_of_allowed_load htd hw hm hl, get_loadMemory hfb hfont hprog, fun x => ?_, rfl, rfl, rfl, rfl, rfl,
    rfl, rfl, hw, rfl, ?_, ?_⟩
  · simp [State.getV]
  · simp [hm]
  · simp [Agree]

/-- Settles O13: each ground is the first that holds, and after a refused `Load` no `Cycle` is in progress. -/
theorem loadIsRefused : Obligations.LoadIsRefused := by
  intro s font prog rest why htd hw hm hwhy
  have hl : loadRefusal s.cfg font prog = some why := by
    rcases hwhy with ⟨rfl, hp⟩ | ⟨rfl, hp, hc⟩ | ⟨rfl, hp, hc, hf⟩
    · exact loadRefusal_of_loadError hp
    · exact loadRefusal_of_illegal hp hc
    · exact loadRefusal_of_font hp hc (hf.imp_right fun ⟨_, hfa, hpa⟩ => fontClear_of_overlap hfa hpa)
  have hmoves : s.dropMove.moves = rest := by simp [hm]
  refine ⟨s.dropMove.loadRefused why, ?_, rfl, rfl, hmoves, by simp [Agree], fun font' prog' rest' hr hl' => ?_⟩
  · rw [step_of_load htd hw hm, loadCore_of_refusal (s := s.dropMove) hl]
  · refine ⟨_, step_of_allowed_load htd hw (hmoves.trans hr) hl', rfl, rfl, ?_⟩
    simp [hm, hr]

/-- Settles O14: the reset state is blank and runs, and its straps lie in the legal ranges. -/
theorem resetMeetsInvariant : Obligations.ResetMeetsInvariant := by
  refine ⟨Memory.wf_nil, Display.wf_nil _, Nat.zero_le _, ⟨Nat.succ_pos _, by decide, by decide, ?_⟩,
    fun _ => rfl, ?_⟩
  · exact Nat.le_of_lt_succ Config.fontBaseAddress.isLt
  · simp [State.reset, haltReported]

/-- Settles O15: every step keeps the forms, and leaves RUN, the wait and the reply in one of two ways. -/
theorem stepKeepsInvariant : Obligations.StepKeepsInvariant := by
  intro s t hinv h
  obtain ⟨-, hcase⟩ := step_cases h
  obtain ⟨hmem, hdisp, hstack, hlegal, -, -⟩ := id hinv
  have hform := hcase.keepsForm
  refine ⟨hform.mem hmem, hform.cfg ▸ hform.disp hlegal hdisp, hform.stack hstack, hform.cfg ▸ hlegal, ?_⟩
  cases hcase.control hinv with
  | running hr hrep => exact ⟨fun _ => hr, fun h => by simp [hrep] at h⟩
  | halted hr hw => exact ⟨fun h => absurd hw h, fun _ => hr⟩

/-- Settles O16: the straps are part of what every step keeps. -/
theorem strapsNeverChange : Obligations.StrapsNeverChange := fun _ _ h => (step_cases h).2.keepsForm.cfg

/-- Settles O17: a step leaves the core running, from a running core or by a `Load`, or halted with a report. -/
theorem runChangesOnlyByLoadAndBoundsViolation : Obligations.RunChangesOnlyByLoadAndBoundsViolation := by
  refine ⟨fun _ => rfl, fun s t hinv h => ?_⟩
  obtain ⟨-, hcase⟩ := step_cases h
  refine ⟨fun font prog => hcase.run_of_load, ?_⟩
  simp only [← haltReported_iff]
  cases hcase.control hinv with
  | running hr hrep hfrom =>
    refine ⟨fun hs _ => hfrom.resolve_left (by simp [hs]), fun _ => ?_⟩
    simp [hr, hrep]
  | halted hr hw hrep =>
    refine ⟨fun _ ht => by simp [hr] at ht, fun hs => ?_⟩
    simp [hr, hrep hs]

/-- Settles O18, one timer at a time. -/
theorem timersMoveOnlyBySetTickAndReset : Obligations.TimersMoveOnlyBySetTickAndReset := by
  intro s t h
  obtain ⟨-, hcase⟩ := step_cases h
  exact ⟨hcase.timer .delay, hcase.timer .sound⟩

/-- Settles O19, one timer at a time. -/
theorem tickDecrementsItsTimer : Obligations.TickDecrementsItsTimer := by
  intro s rest htd
  constructor
  · intro hm
    obtain ⟨t, ht, hval, hmoves, -, hf⟩ := step_tick_spec htd hm
    exact ⟨t, ht, hval, hmoves, hf⟩
  · intro hm
    obtain ⟨t, ht, hval, hmoves, -, hf⟩ := step_tick_spec htd hm
    exact ⟨t, ht, hval, hmoves, hf⟩

/-- Settles O57, move by move. -/
theorem blockedCoreWaitsForTheHost : Obligations.BlockedCoreWaitsForTheHost := by
  intro w s htd hw
  refine ⟨step_of_blocked_idle htd hw, ?_, ?_, ?_, ?_, ?_, ?_, ?_, ?_⟩
  · intro T rest hm
    obtain ⟨t, ht, -, -, hwait, hf⟩ := step_tick_spec htd hm
    exact ⟨t, ht, hwait.trans hw, hf⟩
  · intro m rest hm hmove
    cases w with
    | key x =>
      rw [step_of_move_inKeyWait htd hw hm]
      rcases hmove with rfl | rfl | ⟨font, prog, rfl⟩ <;> rfl
    | render =>
      rw [step_of_move_inRender htd hw hm]
      rcases hmove with rfl | rfl | ⟨font, prog, rfl⟩ <;> rfl
  · rintro x k rest rfl hm
    refine ⟨_, step_of_move_inKeyWait htd hw hm, rfl, ?_, rfl, by simp [hm], ?_⟩
    · exact s.dropMove.deliver_getV_toNat x k
    · exact (s.dropMove_frame.append (s.dropMove.deliver_frame x k)).mono (by simp)
  · rintro k rest rfl hm
    exact ⟨_, step_of_move_inRender htd hw hm, by simp [hm], s.dropMove_frame⟩
  · rintro x rest rfl hm
    exact ⟨_, step_of_move_inKeyWait htd hw hm, rfl, rfl, by simp [hm],
      (s.dropMove_frame.append s.dropMove.cancelWait_frame).mono (by simp)⟩
  · rintro rest rfl hm
    exact step_of_move_inRender htd hw hm
  · rintro rest rfl hm
    exact ⟨_, step_of_move_inRender htd hw hm, rfl, rfl, by simp [hm],
      (s.dropMove_frame.append s.dropMove.returnRender_frame).mono (by simp)⟩
  · intro m rest hm hmove
    cases w with
    | key x =>
      rw [step_of_move_inKeyWait htd hw hm]
      rcases hmove with rfl | ⟨rfl, -⟩ <;> rfl
    | render =>
      obtain rfl : m = .holdRender := hmove.resolve_right fun h => h.2 rfl
      exact step_of_move_inRender htd hw hm

/-- Settles O58: the keypad lines change in any wait, and the other moves are evaluated. -/
theorem portMovesOutsideAWait : Obligations.PortMovesOutsideAWait := by
  intro s rest htd
  refine ⟨fun d hm => ?_, fun k hw hm => ?_, fun hw hm => step_of_move_free htd hw hm, fun m hw hm hmove => ?_⟩
  · refine ⟨_, step_of_keys htd hm, rfl, by simp [hm], fun p hp => ?_⟩
    cases p with
    | keypad | moves => simp at hp
    | _ => rfl
  · exact ⟨_, step_of_move_free htd hw hm, by simp [hm], s.dropMove_frame⟩
  · rw [step_of_move_free htd hw hm]
    rcases hmove with rfl | rfl <;> rfl

/-- Settles O60: the flag stops every step, and only the move that sets it changes it. -/
theorem noStepAfterTeardown : Obligations.NoStepAfterTeardown := by
  refine ⟨fun s => step_of_tornDown, fun s rest htd hw hm => ?_, fun s t h ht => ?_⟩
  · refine ⟨_, step_of_move_free htd hw hm, rfl, by simp [hm], fun p hp => ?_⟩
    cases p with
    | tornDown | moves => simp at hp
    | _ => rfl
  · obtain ⟨hs, hcase⟩ := step_cases h
    exact hcase.tornDown_of_set hs ht

end Sys2Proof.Machine
end

section
/-! PROOF. Calls, returns and the jump with offset; flags; the keypad and the timers: the statements about these
instructions (41_flow.md, 42_alu.md, 43_index_memory.md, 45_keypad_timers.md). -/

namespace Sys2Proof

/-- A word of format XNN whose low byte is a sub-opcode, given by its number (30_encoding.md R53). -/
theorem decodeWord_ofNat_X {i : Instr} {c : Nibble} {x : RegIdx} {nn : Byte} {k : Nat} (h : i.wellFormed = true)
    (hi : encode i = wordXNN c x nn) (hk : k = c.toNat * 4096 + nn.toNat) :
    decodeWord (BitVec.ofNat 16 (k + 256 * x.val)) = .ok i := by
  apply decodeWord_ofNat h
  rw [hi, wordXNN_toNat]
  omega

end Sys2Proof

namespace Sys2Proof.Machine

/-! ### Flags, differences, shifts, and the sum of BNNN -/

theorem flagByte_toNat (b : Bool) : (flagByte b).toNat = if b = true then 1 else 0 := by
  cases b with
  | _ => rfl

/-- A flag that is a decided condition. -/
theorem flagByte_decide_toNat (p : Prop) [Decidable p] : (flagByte (decide p)).toNat = if p then 1 else 0 := by
  simp only [flagByte_toNat, decide_eq_true_eq]

/-- A flag that is one bit of a byte. -/
theorem flagByte_getLsbD_toNat (a : Byte) (k : Nat) : (flagByte (a.getLsbD k)).toNat = a.toNat / 2 ^ k % 2 := by
  rw [BitVec.getLsbD, Nat.testBit_eq_decide_div_mod_eq, flagByte_decide_toNat]
  split
  · omega
  · omega

/-- A register, then the flag: with x = 15 the flag stands (42_alu.md R92). -/
theorem complete_setV_setFlag (s : State) (x : RegIdx) (b : Byte) (f : Bool) :
    ∃ t, complete ((s.setV x b).setFlag f) = .next t ∧ t.result = some .ok ∧ (x ≠ regF → t.getV x = b) ∧
      t.getV regF = flagByte f ∧ ChangesOnly [.result, .v x, .v regF] s t := by
  refine ⟨_, complete_eq _, rfl, fun hx => ?_, State.getV_setV_self _ regF _,
    ((s.setV_frame x b).append (State.setFlag_frame _ f)).finish⟩
  exact (State.getV_setV_other _ _ hx).trans (s.getV_setV_self x b)

/-- The flag, then a register: with x = 15 the register's value stands (42_alu.md R93, R94). -/
theorem complete_setFlag_setV (s : State) (x : RegIdx) (b : Byte) (f : Bool) :
    ∃ t, complete ((s.setFlag f).setV x b) = .next t ∧ t.result = some .ok ∧ t.getV x = b ∧
      (x ≠ regF → t.getV regF = flagByte f) ∧ ChangesOnly [.result, .v x, .v regF] s t := by
  refine ⟨_, complete_eq _, rfl, State.getV_setV_self _ x b, fun hx => ?_, ?_⟩
  · exact (State.getV_setV_other _ _ (Ne.symm hx)).trans (s.getV_setV_self regF _)
  · exact ((s.setFlag_frame f).append (State.setV_frame _ x b)).finish.mono (by simp)

/-- A difference of bytes is the difference of their numbers modulo 256 (42_alu.md, Arithmetic laws). -/
theorem toNat_sub_mod (a b : Byte) : ((a - b).toNat : Int) = ((a.toNat : Int) - b.toNat) % 256 := by
  have ha := a.isLt
  have hb := b.isLt
  rw [BitVec.toNat_sub]
  omega

/-- Completing a subtraction (42_alu.md R93, R95). -/
theorem complete_subtract (s : State) (x : RegIdx) (a b : Byte) :
    ∃ t, complete ((s.setFlag (noBorrow a b)).setV x (a - b)) = .next t ∧ t.result = some .ok ∧
      ((t.getV x).toNat : Int) = ((a.toNat : Int) - b.toNat) % 256 ∧
      (x ≠ regF → (t.getV regF).toNat = if b.toNat ≤ a.toNat then 1 else 0) ∧
      ChangesOnly [.result, .v x, .v regF] s t := by
  obtain ⟨t, ht, hres, hx, hflag, hf⟩ := complete_setFlag_setV s x (a - b) (noBorrow a b)
  refine ⟨t, ht, hres, ?_, fun h => ?_, hf⟩
  · rw [hx, toNat_sub_mod]
  · rw [hflag h, noBorrow, flagByte_decide_toNat]

/-- Completing a shift, whose value and flag are known by number (42_alu.md R94, R96). -/
theorem complete_shift (s : State) (x : RegIdx) {b : Byte} {f : Bool} {v c : Nat} (hb : b.toNat = v)
    (hf : (flagByte f).toNat = c) :
    ∃ t, complete ((s.setFlag f).setV x b) = .next t ∧ t.result = some .ok ∧ (t.getV x).toNat = v ∧
      (x ≠ regF → (t.getV regF).toNat = c) ∧ ChangesOnly [.result, .v x, .v regF] s t := by
  obtain ⟨t, ht, hres, hx, hflag, hframe⟩ := complete_setFlag_setV s x b f
  exact ⟨t, ht, hres, by rw [hx, hb], fun h => by rw [hflag h, hf], hframe⟩

/-- The sum of BNNN lies below 65536, so it is not reduced (41_flow.md R83). -/
theorem jumpTarget_toNat (nnn : Addr12) (b : Byte) : (addrWord nnn + toWord b).toNat = nnn.toNat + b.toNat := by
  have hn := nnn.isLt
  have hb := b.isLt
  have hw : (toWord b).toNat = b.toNat := BitVec.toNat_setWidth_of_le (by decide)
  rw [BitVec.toNat_add, addrWord_toNat, hw]
  omega

/-! ### The obligations on control flow -/

/-- Settles O24: `Push` has room or refuses. -/
theorem callPushesReturnAddress : Obligations.CallPushesReturnAddress := by
  refine ⟨fun nnn => decodeWord_ofNat rfl ?_, fun nnn s => ⟨fun hs => ?_, fun hs => ?_⟩⟩
  · simp only [encode, wordNNN_toNat, BitVec.reduceToNat]
  · simp only [exec, execCall, State.push_of_room hs]
    exact ⟨_, complete_eq _, rfl, addrWord_toNat nnn, rfl,
      ((s.setStack_frame _).append (State.setPc_frame _ _)).finish.mono (by simp)⟩
  · simp only [exec, execCall, State.push_of_full hs]
    exact ⟨_, fail_eq _ _, rfl, s.raise_frame_of_not_fatal rfl⟩

/-- Settles O25: `Pop` finds an entry or refuses. -/
theorem returnPopsPc : Obligations.ReturnPopsPc := by
  refine ⟨rfl, fun s => ⟨fun w rest hs => ?_, fun hs => ?_⟩⟩
  · simp only [exec, execRet, State.pop_cons hs]
    exact ⟨_, complete_eq _, rfl, rfl, rfl,
      ((s.setStack_frame rest).append (State.setPc_frame _ w)).finish.mono (by simp)⟩
  · simp only [exec, execRet, State.pop_nil hs]
    exact ⟨_, fail_eq _ _, rfl, s.raise_frame_of_not_fatal rfl⟩

/-- Settles O26: the return pops what the call pushed. -/
theorem callThenReturnLandsAfterCall : Obligations.CallThenReturnLandsAfterCall := by
  intro nnn s hs
  obtain ⟨t, ht, hres, -, hstack, -⟩ := (callPushesReturnAddress.2 nnn s).1 hs
  exact ⟨t, ht, hres, fun m hm => (returnPopsPc.2 m).1 s.pc s.stack (hm.trans hstack)⟩

/-- Settles O29: the strap picks the register. -/
theorem jumpWithOffset : Obligations.JumpWithOffset := by
  have hjump (nnn : Addr12) (s : State) (x : RegIdx) (hx : s.jumpOffsetReg nnn = x) :
      ∃ t, exec (.jpOff nnn) s = .next t ∧ t.result = some .ok ∧ t.pc.toNat = nnn.toNat + (s.getV x).toNat ∧
        ChangesOnly [.result, .pc] s t :=
    ⟨_, complete_eq _, rfl, hx ▸ jumpTarget_toNat nnn _, (s.setPc_frame _).finish⟩
  refine ⟨fun nnn => decodeWord_ofNat rfl ?_, fun nnn s => ⟨fun hs => ?_, fun hs x hx => ?_⟩⟩
  · simp only [encode, wordNNN_toNat, BitVec.reduceToNat]
  · exact hjump nnn s 0 (by simp [State.jumpOffsetReg, hs])
  · refine hjump nnn s x ?_
    have hfield : (nnn.extractLsb' 8 4).toNat = nnn.toNat / 256 := by
      have hn := nnn.isLt
      rw [BitVec.extractLsb'_toNat, Nat.shiftRight_eq_div_pow]
      omega
    rw [State.jumpOffsetReg, if_pos hs]
    exact Fin.ext (hfield.trans hx.symm)

/-! ### The obligations on register arithmetic -/

/-- Settles O33: the flag is written last. -/
theorem addRegistersSetsCarry : Obligations.AddRegistersSetsCarry := by
  refine ⟨fun x y => decodeWord_ofNat_XYN rfl rfl rfl, fun x y s => ?_⟩
  obtain ⟨t, ht, hres, hx, hflag, hf⟩ :=
    complete_setV_setFlag s x (s.getV x + s.getV y) (carry (s.getV x) (s.getV y))
  refine ⟨t, ht, hres, fun h => ?_, ?_, hf⟩
  · rw [hx h, BitVec.toNat_add]
  · rw [hflag, carry, flagByte_decide_toNat]

/-- Settles O34: the two orders of the operands. -/
theorem subtractSetsNoBorrow : Obligations.SubtractSetsNoBorrow := by
  refine ⟨fun x y => ⟨?_, ?_⟩, fun x y s => ⟨?_, ?_⟩⟩
  · exact decodeWord_ofNat_XYN rfl rfl rfl
  · exact decodeWord_ofNat_XYN rfl rfl rfl
  · exact complete_subtract s x (s.getV x) (s.getV y)
  · exact complete_subtract s x (s.getV y) (s.getV x)

/-- Settles O35: the strap picks the operand, and each shift moves it by one bit. -/
theorem shiftsMoveOneBit : Obligations.ShiftsMoveOneBit := by
  refine ⟨fun x y => ⟨?_, ?_⟩, fun x y s src hsrc => ?_⟩
  · exact decodeWord_ofNat_XYN rfl rfl rfl
  · exact decodeWord_ofNat_XYN rfl rfl rfl
  · have hop : (s.shiftOperand x y).toNat = src := by
      rw [hsrc, State.shiftOperand]
      split
      · rfl
      · rfl
    have hlt := (s.shiftOperand x y).isLt
    refine ⟨complete_shift s x ?_ ?_, complete_shift s x ?_ ?_⟩
    · rw [BitVec.toNat_ushiftRight, Nat.shiftRight_eq_div_pow, hop, Nat.pow_one]
    · rw [lowBitOut, flagByte_getLsbD_toNat, hop, Nat.pow_zero, Nat.div_one]
    · rw [BitVec.toNat_shiftLeft, Nat.shiftLeft_eq, hop]
      omega
    · rw [highBitOut, flagByte_getLsbD_toNat, hop]
      omega

/-- Settles O36: the draw is counted, and its byte goes under the mask to V[x]. -/
theorem randomByteUnderMask : Obligations.RandomByteUnderMask := by
  refine ⟨fun x nn => decodeWord_ofNat_XNN rfl rfl rfl, fun x nn s => ?_⟩
  exact ⟨_, complete_eq _, rfl, State.getV_setV_self _ x _, rfl,
    (s.drawn_frame.append (State.setV_frame _ x _)).finish.mono (by simp)⟩

/-- Settles O38: the flag is written under the strap, from the exact sum. -/
theorem addToIndexRegister : Obligations.AddToIndexRegister := by
  refine ⟨fun x => decodeWord_ofNat_X rfl rfl rfl, fun x s => ?_⟩
  have hsum : (s.index + toWord (s.getV x)).toNat = (s.index.toNat + (s.getV x).toNat) % 65536 := by
    have hw : (toWord (s.getV x)).toNat = (s.getV x).toNat := BitVec.toNat_setWidth_of_le (by decide)
    rw [BitVec.toNat_add, hw]
  have hf := s.setIndex_frame (s.index + toWord (s.getV x))
  cases hs : s.cfg.addISetsVf with
  | false =>
    simp only [exec, execAddI, hs]
    exact ⟨_, complete_eq _, rfl, hsum, fun _ => hf.finish, fun h => absurd h (by simp)⟩
  | true =>
    simp only [exec, execAddI, hs, if_true]
    refine ⟨_, complete_eq _, rfl, hsum, fun h => absurd h (by simp), fun _ =>
      ⟨(hf.append (State.setFlag_frame _ _)).finish, ?_⟩⟩
    exact (congrArg BitVec.toNat (State.getV_setV_self _ regF _)).trans (flagByte_decide_toNat _)

/-! ### The obligations on keypad and timers -/

/-- Settles O54: the key number is in range, and the line's level is the condition of the skip. -/
theorem skipOnKey : Obligations.SkipOnKey := by
  refine ⟨fun x => ⟨decodeWord_ofNat_X rfl rfl rfl, decodeWord_ofNat_X rfl rfl rfl⟩, fun x s hx => ⟨?_, ?_⟩⟩
  · simp only [exec, execSkp, if_neg (Nat.not_lt.2 hx)]
    exact ⟨_, complete_eq _, rfl, s.skipIf_pc_toNat _, (s.skipIf_frame _).finish⟩
  · simp only [exec, execSknp, if_neg (Nat.not_lt.2 hx)]
    refine ⟨_, complete_eq _, rfl, (s.skipIf_pc_toNat _).trans ?_, (s.skipIf_frame _).finish⟩
    rw [State.keyIsPressed]
    cases s.keypad.getLsbD (s.getV x).toNat with
    | _ => rfl

/-- Settles O55: the number is out of range before the port is asked. -/
theorem keyNumberAboveFifteenHalts : Obligations.KeyNumberAboveFifteenHalts := by
  intro x s hx
  constructor
  · simp only [exec, execSkp, if_pos hx]
    exact ⟨_, fail_eq _ _, rfl, rfl, s.raise_frame _⟩
  · simp only [exec, execSknp, if_pos hx]
    exact ⟨_, fail_eq _ _, rfl, rfl, s.raise_frame _⟩

/-- Settles O56: the next move decides. -/
theorem waitForKey : Obligations.WaitForKey := by
  refine ⟨fun x => decodeWord_ofNat_X rfl rfl rfl, fun x s => ⟨fun k rest hm => ?_, fun rest hm => ?_,
    fun hp hc => ?_⟩⟩
  · have he : exec (.waitKey x) s = .next (s.dropMove.deliver x k) := by
      simp only [exec, execWaitKey, hm, List.head?_cons]
    exact ⟨_, he, rfl, s.dropMove.deliver_getV_toNat x k, rfl, by simp [hm],
      (s.dropMove_frame.append (s.dropMove.deliver_frame x k)).mono (by simp)⟩
  · have he : exec (.waitKey x) s = .next s.dropMove.cancelWait := by
      simp only [exec, execWaitKey, hm, List.head?_cons]
    exact ⟨_, he, rfl, rfl, by simp [hm], (s.dropMove_frame.append s.dropMove.cancelWait_frame).mono (by simp)⟩
  · have he : exec (.waitKey x) s = .next (s.block (.key x)) := by
      change execWaitKey x s = _
      unfold execWaitKey
      split
      · next h => exact absurd h (hp _)
      · next h => exact absurd h hc
      · rfl
    exact ⟨_, he, rfl, s.block_frame _⟩

/-- Settles O59: each timer is read, or set, through its field. -/
theorem timersAreReadAndSet : Obligations.TimersAreReadAndSet := by
  refine ⟨fun x => ⟨?_, ?_, ?_⟩, fun x s => ⟨complete_setV s x s.dt, ?_, ?_⟩⟩
  · exact decodeWord_ofNat_X rfl rfl rfl
  · exact decodeWord_ofNat_X rfl rfl rfl
  · exact decodeWord_ofNat_X rfl rfl rfl
  · exact ⟨_, complete_eq _, rfl, rfl, (s.timerSet_frame .delay _).finish⟩
  · exact ⟨_, complete_eq _, rfl, rfl, decide_eq_true_iff, (s.timerSet_frame .sound _).finish⟩

end Sys2Proof.Machine
end

section
/-! PROOF. Sequences of bytes in memory, and the statements about FX33, FX55 and FX65 (43_index_memory.md). -/

namespace Sys2Proof.Machine

/-! ### Whether a sequence fits -/

theorem Memory.store_bad_of_fits (m : Memory) {a : Nat} {bs : List Byte} (h : a + bs.length ≤ 4096) :
    (Memory.store m a bs).2 = none := by
  rw [Memory.store_bad]
  exact if_pos (.inr h)

theorem Memory.store_bad_of_overrun (m : Memory) {a : Nat} {bs : List Byte} (hne : bs.length ≠ 0)
    (h : 4096 < a + bs.length) : (Memory.store m a bs).2 = some (max a 4096) := by
  rw [Memory.store_bad]
  refine if_neg ?_
  rw [← List.length_eq_zero_iff]
  unfold lastAddr
  omega

theorem Memory.load_bad_of_fits (m : Memory) {a k : Nat} (h : a + k ≤ 4096) : (Memory.load m a k).2 = none := by
  rw [Memory.load_bad]
  exact if_pos (.inr h)

theorem Memory.load_bad_of_overrun (m : Memory) {a k : Nat} (hne : k ≠ 0) (h : 4096 < a + k) :
    (Memory.load m a k).2 = some (max a 4096) := by
  rw [Memory.load_bad]
  refine if_neg ?_
  unfold lastAddr
  omega

/-! ### What FX33, FX55 and FX65 move -/

/-- The digits of a byte, hundreds first. -/
theorem digits_toNat (a : Byte) :
    ((digits a).getD 0 0#8).toNat = a.toNat / 100 ∧ ((digits a).getD 1 0#8).toNat = a.toNat / 10 % 10 ∧
      ((digits a).getD 2 0#8).toNat = a.toNat % 10 := by
  have ha := a.isLt
  refine ⟨Nat.mod_eq_of_lt ?_, Nat.mod_eq_of_lt ?_, Nat.mod_eq_of_lt ?_⟩
  · omega
  · omega
  · omega

/-- What FX55 leaves at an address it reaches. -/
theorem State.get_store_firstRegs (s : State) {x k : RegIdx} (hk : k ≤ x) (ha : s.base + k.val ≤ 4095) :
    Memory.get (Memory.store s.mem s.base (s.firstRegs x)).1 (s.base + k.val) = s.getV k := by
  rw [Memory.get_store_inside _ (by simpa using Nat.lt_succ_of_le hk) ha, s.getD_firstRegs x k hk]

/-- What a register holds after a load of `n` bytes from I on. -/
theorem State.getV_fill_load (s : State) (n : Nat) (k : RegIdx) :
    (s.fill (Memory.load s.mem s.base n).1).getV k =
      if k.val < n ∧ s.base + k.val ≤ 4095 then Memory.get s.mem (s.base + k.val) else s.getV k := by
  have hlen := Memory.length_load s.mem s.base n
  unfold lastAddr at hlen
  rw [State.getV_fill]
  by_cases hk : k.val < (Memory.load s.mem s.base n).1.length
  · rw [if_pos hk, if_pos (by omega), Memory.get_load _ _ _ _ hk]
  · rw [if_neg hk, if_neg (by omega)]

/-- I after the optional increment (43_index_memory.md R104, R105). -/
theorem State.stepIndex_spec (s : State) (x : RegIdx) :
    (s.cfg.bcdAndLoadIncrementI = true → (s.stepIndex x).index.toNat = (s.index.toNat + x.val + 1) % 65536) ∧
      (s.cfg.bcdAndLoadIncrementI = false → (s.stepIndex x).index = s.index) := by
  refine ⟨fun h => ?_, fun h => ?_⟩
  · rw [State.stepIndex_index, if_pos h, BitVec.toNat_add, BitVec.toNat_ofNat]
    omega
  · rw [State.stepIndex_index, h]
    rfl

/-! ### How the three instructions end -/

theorem exec_bcd_of_fits {s : State} (x : RegIdx) (h : s.base ≤ 4093) :
    exec (.bcd x) s = .next (s.setMem (Memory.store s.mem s.base (digits (s.getV x))).1).finish := by
  have hbad := Memory.store_bad_of_fits s.mem (a := s.base) (bs := digits (s.getV x)) (by rw [length_digits]; omega)
  simp only [exec, execBcd, hbad, failOr_none, complete_eq]

theorem exec_bcd_of_overrun {s : State} (x : RegIdx) (h : 4093 < s.base) :
    exec (.bcd x) s = .next ((s.setMem (Memory.store s.mem s.base (digits (s.getV x))).1).raise
      (.boundsViolation (max s.base 4096))) := by
  have hbad := Memory.store_bad_of_overrun s.mem (a := s.base) (bs := digits (s.getV x)) (by simp)
    (by rw [length_digits]; omega)
  simp only [exec, execBcd, hbad, failOr_some]

theorem exec_storeRegs_of_fits {s : State} {x : RegIdx} (h : s.base + x.val ≤ 4095) :
    exec (.storeRegs x) s =
      .next ((s.setMem (Memory.store s.mem s.base (s.firstRegs x)).1).stepIndex x).finish := by
  have hbad := Memory.store_bad_of_fits s.mem (a := s.base) (bs := s.firstRegs x) (by rw [State.length_firstRegs]; omega)
  simp only [exec, execStoreRegs, hbad, failOr_none, complete_eq]

theorem exec_storeRegs_of_overrun {s : State} {x : RegIdx} (h : 4095 < s.base + x.val) :
    exec (.storeRegs x) s = .next ((s.setMem (Memory.store s.mem s.base (s.firstRegs x)).1).raise
      (.boundsViolation (max s.base 4096))) := by
  have hbad := Memory.store_bad_of_overrun s.mem (a := s.base) (bs := s.firstRegs x) (by simp)
    (by rw [State.length_firstRegs]; omega)
  simp only [exec, execStoreRegs, hbad, failOr_some]

theorem exec_loadRegs_of_fits {s : State} {x : RegIdx} (h : s.base + x.val ≤ 4095) :
    exec (.loadRegs x) s = .next ((s.fill (Memory.load s.mem s.base (x.val + 1)).1).stepIndex x).finish := by
  have hbad := Memory.load_bad_of_fits s.mem (a := s.base) (k := x.val + 1) (by omega)
  simp only [exec, execLoadRegs, hbad, failOr_none, complete_eq]

theorem exec_loadRegs_of_overrun {s : State} {x : RegIdx} (h : 4095 < s.base + x.val) :
    exec (.loadRegs x) s = .next ((s.fill (Memory.load s.mem s.base (x.val + 1)).1).raise
      (.boundsViolation (max s.base 4096))) := by
  have hbad := Memory.load_bad_of_overrun s.mem (a := s.base) (k := x.val + 1) (Nat.succ_ne_zero _) (by omega)
  simp only [exec, execLoadRegs, hbad, failOr_some]

/-- The increment of I is inside the frame of an instruction that may write I. -/
theorem State.stepIndex_frame_index (s : State) (x : RegIdx) : ChangesOnly [.index] s (s.stepIndex x) := by
  refine (s.stepIndex_frame x).mono fun p hp => ?_
  split at hp
  · exact hp
  · cases hp

/-! ### The obligations -/

/-- Settles O40: the three digits fit. -/
theorem storeDecimalDigits : Obligations.StoreDecimalDigits := by
  refine ⟨fun x => decodeWord_ofNat_X rfl rfl rfl, fun x s hs => ?_⟩
  obtain ⟨h0, h1, h2⟩ := digits_toNat (s.getV x)
  have hget (k : Nat) (hk : k < 3) : Memory.get (Memory.store s.mem s.base (digits (s.getV x))).1 (s.base + k) =
      (digits (s.getV x)).getD k 0#8 := Memory.get_store_inside _ (by simpa using hk) (by omega)
  exact ⟨_, exec_bcd_of_fits x hs, rfl, (congrArg _ (hget 0 (by decide))).trans h0,
    (congrArg _ (hget 1 (by decide))).trans h1, (congrArg _ (hget 2 (by decide))).trans h2,
    (s.store_frame (count := 3) (.inl (length_digits _).le)).finish⟩

/-- Settles O41: the registers fit. -/
theorem storeRegisters : Obligations.StoreRegisters := by
  refine ⟨fun x => decodeWord_ofNat_X rfl rfl rfl, fun x s hs => ?_⟩
  obtain ⟨htrue, hfalse⟩ := (s.setMem (Memory.store s.mem s.base (s.firstRegs x)).1).stepIndex_spec x
  refine ⟨_, exec_storeRegs_of_fits hs, rfl, fun k hk => ?_, htrue, hfalse, ?_⟩
  · rw [State.finish_mem, State.stepIndex_mem]
    exact s.get_store_firstRegs hk (by rw [Fin.le_def] at hk; omega)
  · exact ((s.store_frame (.inl (s.length_firstRegs x).le)).append
      (State.stepIndex_frame_index _ x)).finish.mono (by simp +contextual [or_imp])

/-- Settles O42: the bytes to load lie in memory. -/
theorem loadRegisters : Obligations.LoadRegisters := by
  refine ⟨fun x => decodeWord_ofNat_X rfl rfl rfl, fun x s hs => ?_⟩
  obtain ⟨htrue, hfalse⟩ := (s.fill (Memory.load s.mem s.base (x.val + 1)).1).stepIndex_spec x
  refine ⟨_, exec_loadRegs_of_fits hs, rfl, fun k hk => ?_, htrue, hfalse, ?_⟩
  · rw [Fin.le_def] at hk
    exact (State.getV_congr (State.stepIndex_v _ x) k).trans
      ((s.getV_fill_load _ k).trans (if_pos ⟨by omega, by omega⟩))
  · exact ((s.fill_load_frame x).append (State.stepIndex_frame_index _ x)).finish.mono (by simp +contextual [or_imp])

/-- Settles O43: the load reads the addresses the store wrote. -/
theorem storeThenLoadRoundTrip : Obligations.StoreThenLoadRoundTrip := by
  intro x s u hs
  obtain ⟨t, ht, hres, hmem, -⟩ := storeRegisters.2 x s hs
  refine ⟨t, ht, hres, fun hindex hsame => ?_⟩
  have hbase : u.base = s.base := congrArg BitVec.toNat hindex
  obtain ⟨w, hw, hwres, hv, -⟩ := loadRegisters.2 x u (hbase ▸ hs)
  exact ⟨w, hw, hwres, fun k hk => by rw [hv k hk, hbase, hsame k hk, hmem k hk]⟩

/-- Settles O44: V0 and V1 lie at the address of the next fetch, and the store leaves PC and the schedule. -/
theorem storedWordIsFetchedNext : Obligations.StoredWordIsFetchedNext := by
  intro x s w hx hs hpc hc hr hw
  obtain ⟨t, ht, -, hmem, -, -, hf⟩ := storeRegisters.2 x s hs
  have hpc' : t.pc = s.pc := hf .pc (by simp [State.bytesFromIndex])
  have hrun : t.run = s.run := hf .run (by simp [State.bytesFromIndex])
  have hwait : t.wait = s.wait := hf .wait (by simp [State.bytesFromIndex])
  have hmoves : t.moves = s.moves := hf .moves (by simp [State.bytesFromIndex])
  have htd : t.tornDown = s.tornDown := hf .tornDown (by simp [State.bytesFromIndex])
  have hbase : t.pc.toNat = s.base := congrArg BitVec.toNat (hpc'.trans hpc)
  obtain ⟨hs1, hs2, hs3⟩ := hc
  refine ⟨t, ht, ⟨htd.trans hs1, hwait.trans hs2, hmoves ▸ hs3⟩, hrun.trans hr, by omega, ?_⟩
  have h0 : Memory.get t.mem s.base = s.getV 0 := hmem 0 (Fin.zero_le x)
  have h1 : Memory.get t.mem (s.base + 1) = s.getV 1 := hmem 1 (Fin.le_def.2 hx)
  rw [hw, hbase, h0, h1]

/-- Settles O45: the bytes below 4096 are stored before the error. -/
theorem storePastMemoryKeepsPrefix : Obligations.StorePastMemoryKeepsPrefix := by
  have hframe (s : State) (bs : List Byte) :
      ChangesOnly (.result :: .run :: s.bytesFromIndex (4096 - s.base)) s
        ((s.setMem (Memory.store s.mem s.base bs).1).raise (.boundsViolation (max s.base 4096))) :=
    ((s.store_frame (count := 4096 - s.base) (.inr (by omega))).append (State.raise_frame _ _)).mono
      (by simp +contextual [or_imp])
  refine ⟨fun x s hs => ?_, fun x s hs => ?_⟩
  · obtain ⟨h0, h1, -⟩ := digits_toNat (s.getV x)
    refine ⟨_, exec_bcd_of_overrun x hs, rfl, rfl, fun h => ?_, fun h => ?_, hframe s _⟩
    · exact (congrArg _ (Memory.get_store_inside (k := 0) _ (by simp) h)).trans h0
    · exact (congrArg _ (Memory.get_store_inside (k := 1) _ (by simp) h)).trans h1
  · refine ⟨_, exec_storeRegs_of_overrun hs, rfl, rfl, fun k hk => ?_, hframe s _⟩
    exact s.get_store_firstRegs (Fin.le_def.2 (by omega)) hk

/-- Settles O46: the bytes below 4096 are loaded before the error. -/
theorem loadPastMemoryKeepsPrefix : Obligations.LoadPastMemoryKeepsPrefix := by
  intro x s hs
  refine ⟨_, exec_loadRegs_of_overrun hs, rfl, rfl, fun k => ?_, ?_⟩
  · refine (s.getV_fill_load _ k).trans ?_
    by_cases hk : s.base + k.val ≤ 4095
    · rw [if_pos hk, if_pos ⟨by omega, hk⟩]
    · rw [if_neg hk, if_neg (by omega)]
  · exact ((s.fill_load_frame x).append (State.raise_frame _ _)).mono (by simp +contextual [or_imp])

end Sys2Proof.Machine
end

section
/-! PROOF. What one draw does to the picture and to VF, which cells it hits, and the statements about 00E0 and DXYN
(44_display.md). -/

namespace Sys2Proof.Machine

/-! ### One draw as a list of hits -/

/-- A sprite byte that is read lies in memory. -/
def State.spriteFits (s : State) (y : RegIdx) (n : Nibble) : Prop :=
  s.rowsRead y n = 0 ∨ s.base + s.rowsRead y n ≤ 4096

/-- No more rows are read than the sprite has. -/
theorem State.rowsRead_le (s : State) (y : RegIdx) (n : Nibble) : s.rowsRead y n ≤ n.toNat := by
  unfold State.rowsRead
  split
  · exact le_refl _
  · exact Nat.min_le_left ..

/-- Some hit found its cell on, counting the hits before it (44_display.md R110). -/
theorem collision_iff (hits : List Nat) (cv : Canvas) :
    (hits.foldl hitCell cv).2 = true ↔
      cv.2 = true ∨ ∃ before k after, hits = before ++ k :: after ∧
        (before.foldl hitCell cv).1.contains k = true := by
  induction hits generalizing cv with
  | nil => simp
  | cons j hits ih =>
    rw [List.foldl_cons, ih]
    constructor
    · rintro (h | ⟨before, k, after, rfl, hk⟩)
      · rcases Bool.or_eq_true_iff.1 h with h | h
        · exact .inl h
        · exact .inr ⟨[], j, hits, rfl, h⟩
      · exact .inr ⟨j :: before, k, after, rfl, hk⟩
    · rintro (h | ⟨before, k, after, he, hk⟩)
      · exact .inl (Bool.or_eq_true_iff.2 (.inl h))
      · cases before with
        | nil =>
          cases he
          exact .inl (Bool.or_eq_true_iff.2 (.inr hk))
        | cons b before =>
          cases he
          exact .inr ⟨before, k, after, rfl, hk⟩

/-- The blitter's writes: the picture and VF. -/
theorem State.canvas_frame (s : State) (cv : Canvas) :
    ChangesOnly [.v regF, .disp] s ((s.setDisp cv.1).setFlag cv.2) :=
  ((s.setDisp_frame cv.1).append (State.setFlag_frame _ cv.2)).mono (by simp)

/-- A draw whose sprite bytes lie in memory draws its hits, and ends in `Render`. -/
theorem exec_drw_of_fits {x y : RegIdx} {n : Nibble} {s : State} (h : s.spriteFits y n) :
    ∃ t, exec (.drw x y n) s = .next t ∧ t.cfg = s.cfg ∧ EndsInRender [.v regF, .disp] s t ∧
      t.disp = ((s.drawHits x y n).foldl hitCell (s.disp, false)).1 ∧
      t.getV regF = flagByte ((s.drawHits x y n).foldl hitCell (s.disp, false)).2 := by
  have hrows : ∀ r < n.toNat, target s.cfg.edgePolicy s.cfg.displayHeight (s.startRow y + r) ≠ none →
      s.base + r ≤ lastAddr := fun r hr ht => by
    rw [s.target_row_some_iff y n hr] at ht
    unfold lastAddr
    rcases h with h | h
    · omega
    · omega
  have he : exec (.drw x y n) s = renderEnd ((s.setDisp ((s.drawHits x y n).foldl hitCell (s.disp, false)).1).setFlag
      ((s.drawHits x y n).foldl hitCell (s.disp, false)).2) := by
    simp only [exec, execDrw, drawRows_eq_spriteHits _ _ _ _ _ _ _ hrows, failOr_none]
    rfl
  obtain ⟨t, ht, hdisp, hv, hcfg, hend⟩ := renderEnd_spec (s.canvas_frame _) rfl rfl
  exact ⟨t, he.trans ht, hcfg, hend, hdisp, (State.getV_congr hv regF).trans (State.getV_setV_self _ regF _)⟩

/-- A cell is toggled once for every hit. -/
theorem contains_of_draw {x y : RegIdx} {n : Nibble} {s t : State}
    (h : t.disp = ((s.drawHits x y n).foldl hitCell (s.disp, false)).1) (k : Nat) :
    t.disp.contains k = xor (s.disp.contains k) (decide ((s.drawHits x y n).count k % 2 = 1)) := by
  rw [h, contains_hits]

/-- A draw leaves VF = 1 exactly on a collision. -/
theorem flag_of_draw {x y : RegIdx} {n : Nibble} {s : State} :
    ((s.drawHits x y n).foldl hitCell (s.disp, false)).2 = true ↔
      ∃ before k after, s.drawHits x y n = before ++ k :: after ∧
        xor (s.disp.contains k) (decide (before.count k % 2 = 1)) = true := by
  simp only [collision_iff, Bool.false_eq_true, false_or, contains_hits]

/-! ### The same draw again -/

/-- The hits depend on the sprite's own bytes only. -/
theorem spriteHits_congr {c : Straps} {m m' : Memory} {base x0 y0 n : Nat}
    (h : ∀ r < n, Memory.get m' (base + r) = Memory.get m (base + r)) :
    spriteHits c m' base x0 y0 n = spriteHits c m base x0 y0 n := by
  unfold spriteHits
  refine List.flatMap_congr fun r hr => ?_
  rw [h r (List.mem_range.1 hr)]

/-- `m` has the operands, straps and sprite bytes that `s` has. -/
structure SameDraw (x y : RegIdx) (n : Nibble) (s m : State) : Prop where
  cfg : m.cfg = s.cfg
  vx : m.getV x = s.getV x
  vy : m.getV y = s.getV y
  index : m.index = s.index
  bytes : ∀ r < n.toNat, Memory.get m.mem (s.base + r) = Memory.get s.mem (s.base + r)

theorem SameDraw.base {x y : RegIdx} {n : Nibble} {s m : State} (h : SameDraw x y n s m) : m.base = s.base :=
  congrArg BitVec.toNat h.index

theorem SameDraw.startRow {x y : RegIdx} {n : Nibble} {s m : State} (h : SameDraw x y n s m) :
    m.startRow y = s.startRow y := by rw [State.startRow, State.startRow, h.vy, h.cfg]

theorem SameDraw.startCol {x y : RegIdx} {n : Nibble} {s m : State} (h : SameDraw x y n s m) :
    m.startCol x = s.startCol x := by rw [State.startCol, State.startCol, h.vx, h.cfg]

theorem SameDraw.drawHits {x y : RegIdx} {n : Nibble} {s m : State} (h : SameDraw x y n s m) :
    m.drawHits x y n = s.drawHits x y n := by
  rw [State.drawHits, State.drawHits, h.cfg, h.base, h.startCol, h.startRow]
  exact spriteHits_congr h.bytes

theorem SameDraw.spriteFits {x y : RegIdx} {n : Nibble} {s m : State} (h : SameDraw x y n s m)
    (hs : s.spriteFits y n) : m.spriteFits y n := by
  have hrows : m.rowsRead y n = s.rowsRead y n := by rw [State.rowsRead, State.rowsRead, h.cfg, h.startRow]
  rwa [State.spriteFits, hrows, h.base]

/-! ### Which cells a draw hits -/

/-- A target coordinate is the raw one modulo the grid, and under `clip` the raw one itself. -/
theorem target_some {p : EdgePolicy} {size t u : Nat} (h : target p size t = some u) :
    u = t % size ∧ (p = .clip → u = t) := by
  unfold target at h
  split at h
  · next hlt =>
    cases h
    exact ⟨(Nat.mod_eq_of_lt hlt).symm, fun _ => rfl⟩
  · cases p with
    | clip => cases h
    | wrap =>
      cases h
      exact ⟨rfl, fun h => by cases h⟩

/-- Two raw coordinates less than the grid's size apart have two targets, and under `clip` any two have. -/
theorem target_ne_of_lt {p : EdgePolicy} {size t t' u u' : Nat} (h : target p size t = some u)
    (h' : target p size t' = some u') (hlt : t < t') (hp : p = .clip ∨ t' < t + size) : u ≠ u' := by
  obtain ⟨hu, hclip⟩ := target_some h
  obtain ⟨hu', hclip'⟩ := target_some h'
  rintro rfl
  rcases hp with hp | hp
  · have := hclip hp
    have := hclip' hp
    omega
  · have hmod : (t' - t) % size = 0 := Nat.sub_mod_eq_zero_of_mod_eq (hu'.symm.trans hu)
    rw [Nat.mod_eq_of_lt (by omega)] at hmod
    omega

/-- The hits of one sprite row. -/
def rowHits (c : Straps) (m : Memory) (base x0 y0 r : Nat) : List Nat :=
  match target c.edgePolicy c.displayHeight (y0 + r) with
  | none => []
  | some row =>
    (List.range 8).filterMap fun b =>
      if (Memory.get m (base + r)).getLsbD (7 - b) then
        (target c.edgePolicy c.displayWidth (x0 + b)).map (fun col => cellNumber c col row)
      else none

theorem spriteHits_eq_rowHits (c : Straps) (m : Memory) (base x0 y0 n : Nat) :
    spriteHits c m base x0 y0 n = (List.range n).flatMap (rowHits c m base x0 y0) := rfl

/-- A 1 bit hits the cell of its target column. -/
theorem bitHit_some {c : Straps} {bit : Bool} {t row k : Nat}
    (h : k ∈ if bit then (target c.edgePolicy c.displayWidth t).map (fun col => cellNumber c col row) else none) :
    ∃ col, target c.edgePolicy c.displayWidth t = some col ∧ k = cellNumber c col row := by
  cases bit with
  | false => cases h
  | true =>
    obtain ⟨col, hcol, rfl⟩ := Option.map_eq_some_iff.1 h
    exact ⟨col, hcol, rfl⟩

/-- A row's hits lie in its target row. -/
theorem exists_of_mem_rowHits {c : Straps} {m : Memory} {base x0 y0 r k : Nat} (h : k ∈ rowHits c m base x0 y0 r) :
    ∃ b col row, target c.edgePolicy c.displayHeight (y0 + r) = some row ∧
      target c.edgePolicy c.displayWidth (x0 + b) = some col ∧ k = cellNumber c col row := by
  unfold rowHits at h
  split at h
  · cases h
  · next row hrow =>
    obtain ⟨b, -, hb⟩ := List.mem_filterMap.1 h
    obtain ⟨col, hcol, hk⟩ := bitHit_some hb
    exact ⟨b, col, row, hrow, hcol, hk⟩

/-- One row hits no cell twice. -/
theorem rowHits_nodup {c : Straps} (hc : c.legal) (hp : c.edgePolicy = .clip ∨ 8 ≤ c.displayWidth) (m : Memory)
    (base x0 y0 r : Nat) : (rowHits c m base x0 y0 r).Nodup := by
  unfold rowHits
  split
  · exact List.nodup_nil
  · rw [List.Nodup, List.pairwise_filterMap]
    refine List.pairwise_lt_range.imp_of_mem fun {b b'} hb hb' hlt k hk k' hk' => ?_
    obtain ⟨col, hcol, rfl⟩ := bitHit_some hk
    obtain ⟨col', hcol', rfl⟩ := bitHit_some hk'
    have hlt8 := List.mem_range.1 hb'
    have hne : col ≠ col' := target_ne_of_lt hcol hcol' (by omega) (hp.imp_right fun h => by omega)
    exact fun he => hne (cellNumber_inj (target_lt hc.2.1 hcol) (target_lt hc.2.1 hcol') he).1

/-- Two rows hit no cell in common. -/
theorem rowHits_disjoint {c : Straps} (hc : c.legal) {m : Memory} {base x0 y0 r r' : Nat} (hlt : r < r')
    (hp : c.edgePolicy = .clip ∨ r' < r + c.displayHeight) :
    List.Disjoint (rowHits c m base x0 y0 r) (rowHits c m base x0 y0 r') := by
  intro k hk hk'
  obtain ⟨b, col, row, hrow, hcol, rfl⟩ := exists_of_mem_rowHits hk
  obtain ⟨b', col', row', hrow', hcol', he⟩ := exists_of_mem_rowHits hk'
  have hne : row ≠ row' := target_ne_of_lt hrow hrow' (by omega) (hp.imp_right fun h => by omega)
  exact hne (cellNumber_inj (target_lt hc.2.1 hcol) (target_lt hc.2.1 hcol') he).2

/-- In a list without duplicates no element stands before its place. -/
theorem count_before_of_nodup {before after : List Nat} {k : Nat} (h : (before ++ k :: after).Nodup) :
    before.count k = 0 :=
  List.count_eq_zero.2 fun hk => (List.nodup_append.1 h).2.2 k hk k (by simp) rfl

/-- Where no cell is hit twice, a draw collides exactly where it hits a cell that is on. -/
theorem flag_of_draw_nodup {x y : RegIdx} {n : Nibble} {s : State} (h : (s.drawHits x y n).Nodup) :
    ((s.drawHits x y n).foldl hitCell (s.disp, false)).2 = true ↔
      ∃ k ∈ s.drawHits x y n, s.disp.contains k = true := by
  rw [flag_of_draw]
  constructor
  · rintro ⟨before, k, after, he, hk⟩
    rw [count_before_of_nodup (he ▸ h)] at hk
    exact ⟨k, by simp [he], by simpa using hk⟩
  · rintro ⟨k, hk, hon⟩
    obtain ⟨before, after, he⟩ := List.append_of_mem hk
    refine ⟨before, k, after, he, ?_⟩
    rw [count_before_of_nodup (he ▸ h)]
    simpa using hon

/-! ### A draw that runs past memory -/

/-- The row loop in two parts, where the first part meets neither the edge nor the end of memory. -/
theorem drawRows_add {c : Straps} {m : Memory} {base x0 y0 : Nat} (a b r : Nat) (cv : Canvas)
    (h : ∀ j, r ≤ j → j < r + a → target c.edgePolicy c.displayHeight (y0 + j) ≠ none ∧ base + j ≤ lastAddr) :
    drawRows c m base x0 y0 (a + b) r cv =
      drawRows c m base x0 y0 b (r + a) (drawRows c m base x0 y0 a r cv).1 := by
  induction a generalizing r cv with
  | zero => rw [Nat.zero_add, Nat.add_zero, drawRows]
  | succ a ih =>
    obtain ⟨hrow, hmem⟩ := h r (le_refl _) (by omega)
    obtain ⟨row, hrow⟩ := Option.ne_none_iff_exists'.1 hrow
    rw [Nat.add_right_comm, show r + (a + 1) = r + 1 + a by omega]
    simp only [drawRows, hrow, if_neg (Nat.not_lt.2 hmem)]
    exact ih (r + 1) _ fun j h1 h2 => h j (by omega) (by omega)

/-- A draw that runs past memory draws the rows before, and ends at the first bad address. -/
theorem exec_drw_of_overrun {x y : RegIdx} {n : Nibble} {s : State} (h0 : s.rowsRead y n ≠ 0)
    (h : 4096 < s.base + s.rowsRead y n) :
    ∃ cv : Canvas, cv = (spriteHits s.cfg s.mem s.base (s.startCol x) (s.startRow y) (4096 - s.base)).foldl hitCell
        (s.disp, false) ∧
      exec (.drw x y n) s =
        .next (((s.setDisp cv.1).setFlag cv.2).raise (.boundsViolation (max s.base 4096))) := by
  refine ⟨_, rfl, ?_⟩
  have hle := s.rowsRead_le y n
  have hrow {r : Nat} (hr : r ≤ 4096 - s.base) :
      target s.cfg.edgePolicy s.cfg.displayHeight (s.startRow y + r) ≠ none :=
    (s.target_row_some_iff y n (by omega)).2 (by omega)
  obtain ⟨b, hb⟩ : ∃ b, n.toNat = 4096 - s.base + (b + 1) := ⟨n.toNat - (4096 - s.base) - 1, by omega⟩
  obtain ⟨row, hlast⟩ := Option.ne_none_iff_exists'.1 (hrow (le_refl _))
  have hbad : lastAddr < s.base + (4096 - s.base) := by
    unfold lastAddr
    omega
  have hdraw (cv : Canvas) : drawRows s.cfg s.mem s.base (s.startCol x) (s.startRow y) n.toNat 0 cv =
      ((spriteHits s.cfg s.mem s.base (s.startCol x) (s.startRow y) (4096 - s.base)).foldl hitCell cv,
        some (max s.base 4096)) := by
    rw [hb, drawRows_add _ _ _ _ fun j _ hj => ⟨hrow (by omega), by unfold lastAddr; omega⟩,
      drawRows_eq_spriteHits _ _ _ _ _ _ _ fun r hr _ => by unfold lastAddr; omega]
    simp only [drawRows, Nat.zero_add, hlast, if_pos hbad]
    rw [show s.base + (4096 - s.base) = max s.base 4096 by omega]
  simp only [exec, execDrw, hdraw, failOr_some]

/-! ### The obligations -/

/-- Settles O47: the picture that goes out is blank. -/
theorem clearDisplayRendersBlank : Obligations.ClearDisplayRendersBlank := by
  refine ⟨rfl, fun s => ?_⟩
  obtain ⟨t, ht, hdisp, -, -, hend⟩ := renderEnd_spec (s.setDisp_frame []) rfl rfl
  refine ⟨t, ht, fun col row => ?_, hend⟩
  rw [State.cell, hdisp]
  rfl

/-- Settles O48: every hit toggles its cell. -/
theorem drawXorsSpriteIntoDisplay : Obligations.DrawXorsSpriteIntoDisplay := by
  refine ⟨fun x y n => decodeWord_ofNat rfl ?_, fun x y n s _ hfit => ?_⟩
  · simp only [encode, wordXYN_toNat, BitVec.reduceToNat]
    omega
  · obtain ⟨t, ht, hcfg, hend, hdisp, -⟩ := exec_drw_of_fits (x := x) hfit
    refine ⟨t, ht, fun col row => ?_, hend⟩
    rw [State.cell, contains_of_draw hdisp, hcfg, State.cell]

/-- Settles O49: the flag is the sticky collision of the hits. -/
theorem drawFlagIsCollision : Obligations.DrawFlagIsCollision := by
  intro x y n s _ hfit
  obtain ⟨t, ht, -, hend, -, hflag⟩ := exec_drw_of_fits (x := x) hfit
  refine ⟨t, ht, hend, fun h => ?_, fun h => ?_⟩
  · rw [hflag, flag_of_draw.2 h]
    rfl
  · rw [hflag, Bool.eq_false_iff.2 (mt flag_of_draw.1 h)]
    rfl

/-- Settles O50: the second draw has the same hits, and toggling as often again gives the cell back. -/
theorem drawTwiceRestoresDisplay : Obligations.DrawTwiceRestoresDisplay := by
  intro x y n s m _ hfit
  obtain ⟨t, ht, -, hend, hdisp, -⟩ := exec_drw_of_fits (x := x) hfit
  refine ⟨t, ht, hend, fun hcfg hm hx hy hindex hbytes => ?_⟩
  have hsame : SameDraw x y n s m := ⟨hcfg, hx, hy, hindex, hbytes⟩
  obtain ⟨u, hu, hucfg, huend, hudisp, -⟩ := exec_drw_of_fits (x := x) (hsame.spriteFits hfit)
  refine ⟨u, hu, huend, fun col row => ?_⟩
  rw [State.cell, State.cell, contains_of_draw hudisp, hsame.drawHits, hm, contains_of_draw hdisp, hucfg, hcfg,
    Bool.xor_assoc, Bool.xor_self, Bool.xor_false]

/-- Settles O51: neither within a row nor in two rows. -/
theorem drawHitsNoCellTwice : Obligations.DrawHitsNoCellTwice := by
  intro x y n s hc hp
  rw [State.drawHits, spriteHits_eq_rowHits, List.nodup_flatMap]
  refine ⟨fun r _ => rowHits_nodup hc (hp.imp_right And.left) _ _ _ _ r, ?_⟩
  refine List.pairwise_lt_range.imp_of_mem fun {r r'} _ hr' hlt => rowHits_disjoint hc hlt (hp.imp_right fun h => ?_)
  have := List.mem_range.1 hr'
  omega

/-- Settles O52: the second draw meets the cells the first one hit, and those that are on then were off. -/
theorem secondDrawFlagsTheFirst : Obligations.SecondDrawFlagsTheFirst := by
  intro x y n s m _ hfit hnodup
  obtain ⟨t, ht, -, hend, hdisp, -⟩ := exec_drw_of_fits (x := x) hfit
  refine ⟨t, ht, hend, fun hcfg hm hx hy hindex hbytes => ?_⟩
  have hsame : SameDraw x y n s m := ⟨hcfg, hx, hy, hindex, hbytes⟩
  obtain ⟨u, hu, -, huend, -, huflag⟩ := exec_drw_of_fits (x := x) (hsame.spriteFits hfit)
  have hflag : ((m.drawHits x y n).foldl hitCell (m.disp, false)).2 = true ↔
      ∃ k ∈ s.drawHits x y n, t.disp.contains k = true := by
    rw [flag_of_draw_nodup (hsame.drawHits ▸ hnodup), hsame.drawHits, hm]
  have hhit {k : Nat} (hk : k ∈ s.drawHits x y n) : t.disp.contains k = !s.disp.contains k := by
    rw [contains_of_draw hdisp, List.count_eq_one_of_mem hnodup hk]
    simp
  have hmiss {k : Nat} (hk : k ∉ s.drawHits x y n) : t.disp.contains k = s.disp.contains k := by
    rw [contains_of_draw hdisp, List.count_eq_zero.2 hk]
    simp
  refine ⟨u, hu, huend, fun ⟨k, hoff, hon⟩ => ?_, fun hall => ?_⟩
  · have hk : k ∈ s.drawHits x y n := by
      by_contra hk
      rw [hmiss hk, hoff] at hon
      cases hon
    rw [huflag, hflag.2 ⟨k, hk, hon⟩]
    rfl
  · rw [huflag, Bool.eq_false_iff.2 (mt hflag.1 ?_)]
    · rfl
    · rintro ⟨k, hk, hon⟩
      have hoff := hhit hk
      rw [hon, hall k hon] at hoff
      cases hoff

/-- Settles O53: the rows in memory are drawn before the error, and nothing goes out. -/
theorem drawPastMemoryKeepsRows : Obligations.DrawPastMemoryKeepsRows := by
  intro x y n s _ h0 h
  obtain ⟨cv, hcv, ht⟩ := exec_drw_of_overrun (x := x) h0 h
  refine ⟨_, ht, rfl, rfl, fun col row => ?_, ?_, ?_⟩
  · subst hcv
    exact contains_hits _ _ _
  · have hflag : (((s.setDisp cv.1).setFlag cv.2).raise (.boundsViolation (max s.base 4096))).getV regF =
        flagByte cv.2 := State.getV_setV_self _ regF _
    rw [hflag]
    cases cv.2 with
    | false => exact .inl rfl
    | true => exact .inr rfl
  · exact ((s.canvas_frame cv).append (State.raise_frame _ _)).mono (by simp)

end Sys2Proof.Machine
end
